-- ==== Sys2Proof/Word.lean ====
section
/-! DEFINITION. The word types of the hardware (00_scope.md R7, R8): all values are unsigned bit vectors, bit 0 the
least significant. -/

namespace Sys2Proof

/-- A byte of memory or a general register (10_state.md R21, R29). -/
abbrev Byte := BitVec 8

/-- A 16-bit register, an instruction word or a return address (10_state.md R23 to R25, 30_encoding.md R90). -/
abbrev Word := BitVec 16

/-- A 4-bit field of an instruction word (30_encoding.md R91). -/
abbrev Nibble := BitVec 4

/-- The 12-bit address immediate `nnn` (30_encoding.md R91). -/
abbrev Addr12 := BitVec 12

end Sys2Proof
end

