-- ==== Sys2Proof/Syntax.lean ====
section
/-! DEFINITION. The instructions: one constructor for each of the 34 rows of spec/opcode_table.json, in the table's
order (30_encoding.md R96). -/

namespace Sys2Proof

/-- A register index `x` or `y`: all sixteen are legal wherever the field stands (30_encoding.md R94). -/
abbrev Reg := Fin 16

/-- The register that doubles as the flag output, `V[15]` (10_state.md R22). -/
def VF : Reg := 15

/-- One instruction. `z` is the field of four bits that are neither matched nor used (30_encoding.md R100): it has no
effect, and is kept so that an instruction determines its word. The row count `n` of `drw` is a number, bounded by
`Instr.wellFormed`; every other operand is bounded by its type. -/
inductive Instr where
  /-- `00E0`, R140 -/
  | cls
  /-- `00EE`, R141 -/
  | ret
  /-- `1nnn`, R142 -/
  | jp (nnn : Addr12)
  /-- `2nnn`, R143 -/
  | call (nnn : Addr12)
  /-- `3xkk`, R150 -/
  | seVxKk (x : Reg) (kk : Byte)
  /-- `4xkk`, R151 -/
  | sneVxKk (x : Reg) (kk : Byte)
  /-- `5xy0` and every `5xyN`, R152 -/
  | seVxVy (x y : Reg) (z : Nibble)
  /-- `6xkk`, R153 -/
  | ldVxKk (x : Reg) (kk : Byte)
  /-- `7xkk`, R154 -/
  | addVxKk (x : Reg) (kk : Byte)
  /-- `8xy0`, R160 -/
  | ldVxVy (x y : Reg)
  /-- `8xy1`, R161 -/
  | or (x y : Reg)
  /-- `8xy2`, R162 -/
  | and (x y : Reg)
  /-- `8xy3`, R163 -/
  | xor (x y : Reg)
  /-- `8xy4`, R164 -/
  | addVxVy (x y : Reg)
  /-- `8xy5`, R165 -/
  | sub (x y : Reg)
  /-- `8xy6`, R166: the `y` field is not used -/
  | shr (x : Reg) (z : Nibble)
  /-- `8xy7`, R167 -/
  | subn (x y : Reg)
  /-- `8xyE`, R168: the `y` field is not used -/
  | shl (x : Reg) (z : Nibble)
  /-- `9xy0` and every `9xyN`, R180 -/
  | sneVxVy (x y : Reg) (z : Nibble)
  /-- `Annn`, R181 -/
  | ldINnn (nnn : Addr12)
  /-- `Bnnn`, R182 -/
  | jpV0 (nnn : Addr12)
  /-- `Cxkk`, R183 -/
  | rnd (x : Reg) (kk : Byte)
  /-- `Dxyn`, R190 -/
  | drw (x y : Reg) (n : Nat)
  /-- `Ex9E`, R200 -/
  | skp (x : Reg)
  /-- `ExA1`, R201 -/
  | sknp (x : Reg)
  /-- `Fx07`, R210 -/
  | ldVxDt (x : Reg)
  /-- `Fx0A`, R211 -/
  | ldVxK (x : Reg)
  /-- `Fx15`, R212 -/
  | ldDtVx (x : Reg)
  /-- `Fx18`, R213 -/
  | ldStVx (x : Reg)
  /-- `Fx1E`, R214 -/
  | addIVx (x : Reg)
  /-- `Fx29`, R215 -/
  | ldFVx (x : Reg)
  /-- `Fx33`, R216 -/
  | ldBVx (x : Reg)
  /-- `Fx55`, R217: stores `V[0]`..`V[x-1]` -/
  | ldMemVx (x : Reg)
  /-- `Fx65`, R218: loads `V[0]`..`V[x-1]` -/
  | ldVxMem (x : Reg)
  deriving DecidableEq, Repr

end Sys2Proof
end

