-- ==== Sys2Proof/WellFormed.lean ====
section
/-! DEFINITION. Which instructions have an encoding: the row count of a sprite is 0..15 (30_encoding.md R94); every
other operand is bounded by its type. -/

namespace Sys2Proof

/-- The check that an instruction's operands fit their fields (30_encoding.md R91, R94). -/
def Instr.wellFormed : Instr → Bool
  | .drw _ _ n => n < 16
  | .cls | .ret | .jp _ | .call _ | .seVxKk _ _ | .sneVxKk _ _ | .seVxVy _ _ _ | .ldVxKk _ _ | .addVxKk _ _ => true
  | .ldVxVy _ _ | .or _ _ | .and _ _ | .xor _ _ | .addVxVy _ _ | .sub _ _ | .shr _ _ | .subn _ _ | .shl _ _ => true
  | .sneVxVy _ _ _ | .ldINnn _ | .jpV0 _ | .rnd _ _ | .skp _ | .sknp _ | .ldVxDt _ | .ldVxK _ | .ldDtVx _ => true
  | .ldStVx _ | .addIVx _ | .ldFVx _ | .ldBVx _ | .ldMemVx _ | .ldVxMem _ => true

end Sys2Proof
end

