-- ==== Sys2Proof/Decode.lean ====
section
/-! DEFINITION. The decoder (30_encoding.md R90 to R100) and after it the encoder and the opcode map of R96. -/

namespace Sys2Proof

/-! ### Fields of an instruction word (R91) -/

/-- The family nibble, bits 15..12. -/
def fieldFam (w : Word) : Nibble := w.extractLsb' 12 4

/-- The register field `x`, bits 11..8. -/
def fieldX (w : Word) : Reg := (w.extractLsb' 8 4).toFin

/-- The register field `y`, bits 7..4 (R92: this extraction is the canonical one). -/
def fieldY (w : Word) : Reg := (w.extractLsb' 4 4).toFin

/-- The bits of the `y` field of an instruction that does not use it (R100). -/
def fieldYBits (w : Word) : Nibble := w.extractLsb' 4 4

/-- The field `n`, bits 3..0. -/
def fieldN (w : Word) : Nibble := w.extractLsb' 0 4

/-- The field `kk`, bits 7..0. -/
def fieldKK (w : Word) : Byte := w.extractLsb' 0 8

/-- The field `nnn`, bits 11..0. -/
def fieldNNN (w : Word) : Addr12 := w.extractLsb' 0 12

/-! ### The two-level decoder (R95) -/

/-- Family 0x0: the whole word is matched. -/
def decodeFamily0 (w : Word) : Option Instr :=
  if w = 0x00E0#16 then some .cls
  else if w = 0x00EE#16 then some .ret
  else none

/-- Family 0x8: the sub-opcode is `n`. -/
def decodeFamily8 (w : Word) : Option Instr :=
  match (fieldN w).toNat with
  | 0x0 => some (.ldVxVy (fieldX w) (fieldY w))
  | 0x1 => some (.or (fieldX w) (fieldY w))
  | 0x2 => some (.and (fieldX w) (fieldY w))
  | 0x3 => some (.xor (fieldX w) (fieldY w))
  | 0x4 => some (.addVxVy (fieldX w) (fieldY w))
  | 0x5 => some (.sub (fieldX w) (fieldY w))
  | 0x6 => some (.shr (fieldX w) (fieldYBits w))
  | 0x7 => some (.subn (fieldX w) (fieldY w))
  | 0xE => some (.shl (fieldX w) (fieldYBits w))
  | _ => none

/-- Family 0xE: the sub-opcode is `kk`. -/
def decodeFamilyE (w : Word) : Option Instr :=
  match (fieldKK w).toNat with
  | 0x9E => some (.skp (fieldX w))
  | 0xA1 => some (.sknp (fieldX w))
  | _ => none

/-- Family 0xF: the sub-opcode is `kk`. -/
def decodeFamilyF (w : Word) : Option Instr :=
  match (fieldKK w).toNat with
  | 0x07 => some (.ldVxDt (fieldX w))
  | 0x0A => some (.ldVxK (fieldX w))
  | 0x15 => some (.ldDtVx (fieldX w))
  | 0x18 => some (.ldStVx (fieldX w))
  | 0x1E => some (.addIVx (fieldX w))
  | 0x29 => some (.ldFVx (fieldX w))
  | 0x33 => some (.ldBVx (fieldX w))
  | 0x55 => some (.ldMemVx (fieldX w))
  | 0x65 => some (.ldVxMem (fieldX w))
  | _ => none

/-- The instruction a word selects; `none` is an unknown opcode (R97). A pure function of the word (R99). -/
def decodeWord (w : Word) : Option Instr :=
  match (fieldFam w).toNat with
  | 0x0 => decodeFamily0 w
  | 0x1 => some (.jp (fieldNNN w))
  | 0x2 => some (.call (fieldNNN w))
  | 0x3 => some (.seVxKk (fieldX w) (fieldKK w))
  | 0x4 => some (.sneVxKk (fieldX w) (fieldKK w))
  | 0x5 => some (.seVxVy (fieldX w) (fieldY w) (fieldN w))
  | 0x6 => some (.ldVxKk (fieldX w) (fieldKK w))
  | 0x7 => some (.addVxKk (fieldX w) (fieldKK w))
  | 0x8 => decodeFamily8 w
  | 0x9 => some (.sneVxVy (fieldX w) (fieldY w) (fieldN w))
  | 0xA => some (.ldINnn (fieldNNN w))
  | 0xB => some (.jpV0 (fieldNNN w))
  | 0xC => some (.rnd (fieldX w) (fieldKK w))
  | 0xD => some (.drw (fieldX w) (fieldY w) (fieldN w).toNat)
  | 0xE => decodeFamilyE w
  | _ => decodeFamilyF w

/-! ### Decoding bytes -/

/-- What the decoder finds at the front of a list of bytes. -/
inductive Decoded where
  /-- An instruction and the bytes after it. -/
  | instr (i : Instr) (rest : List Byte)
  /-- A word that selects no row of the opcode map (R97), and the bytes after it. -/
  | unknownOpcode (w : Word) (rest : List Byte)
  /-- Fewer than the two bytes of a word (R90). -/
  | truncated
  deriving DecidableEq, Repr

/-- The word of two bytes, the first the high byte (20_memory.md R63). -/
def wordOfBytes (hi lo : Byte) : Word := hi ++ lo

/-- Decode the word at the front of any list of bytes. -/
def decode : List Byte → Decoded
  | hi :: lo :: rest =>
    match decodeWord (wordOfBytes hi lo) with
    | some i => .instr i rest
    | none => .unknownOpcode (wordOfBytes hi lo) rest
  | _ => .truncated

/-- The bytes of a word as memory holds them: the high byte at the lower address (20_memory.md R63). -/
def bytesOfWord (w : Word) : List Byte := [w.extractLsb' 8 8, w.extractLsb' 0 8]

/-- The word that spec/opcode_table.json's numbering of an instruction's bits means: one 16-bit word, so bit `k` of
`w` is bit `k` of the word, and every bit from `nbits` up is 0. -/
def wordOfTable (nbits w : Nat) : Word := BitVec.ofNat 16 (w % 2 ^ nbits)

/-- The instruction the decoder reads from the word, laid out as memory holds it. -/
def decodeTableWord (nbits w : Nat) : Option Instr :=
  match decode (bytesOfWord (wordOfTable nbits w)) with
  | .instr i _ => some i
  | .unknownOpcode _ _ => none
  | .truncated => none

/-! ### The encoder, from the formats of R93 -/

/-- A register index as a field. -/
def regBits (x : Reg) : Nibble := BitVec.ofFin x

/-- Format A. -/
def wordA (fam : Nibble) (nnn : Addr12) : Word := fam ++ nnn

/-- Format XK; format XS is the same layout with the sub-opcode for `kk`. -/
def wordXK (fam : Nibble) (x : Reg) (kk : Byte) : Word := fam ++ (regBits x ++ kk)

/-- Formats XY and XYN: family, two nibbles, and the sub-opcode or `n`. -/
def wordXYN (fam : Nibble) (x : Reg) (y : Nibble) (n : Nibble) : Word := fam ++ (regBits x ++ (y ++ n))

/-- The word of an instruction (R96). -/
def encode : Instr → Word
  | .cls => 0x00E0#16
  | .ret => 0x00EE#16
  | .jp nnn => wordA 0x1 nnn
  | .call nnn => wordA 0x2 nnn
  | .seVxKk x kk => wordXK 0x3 x kk
  | .sneVxKk x kk => wordXK 0x4 x kk
  | .seVxVy x y z => wordXYN 0x5 x (regBits y) z
  | .ldVxKk x kk => wordXK 0x6 x kk
  | .addVxKk x kk => wordXK 0x7 x kk
  | .ldVxVy x y => wordXYN 0x8 x (regBits y) 0x0
  | .or x y => wordXYN 0x8 x (regBits y) 0x1
  | .and x y => wordXYN 0x8 x (regBits y) 0x2
  | .xor x y => wordXYN 0x8 x (regBits y) 0x3
  | .addVxVy x y => wordXYN 0x8 x (regBits y) 0x4
  | .sub x y => wordXYN 0x8 x (regBits y) 0x5
  | .shr x z => wordXYN 0x8 x z 0x6
  | .subn x y => wordXYN 0x8 x (regBits y) 0x7
  | .shl x z => wordXYN 0x8 x z 0xE
  | .sneVxVy x y z => wordXYN 0x9 x (regBits y) z
  | .ldINnn nnn => wordA 0xA nnn
  | .jpV0 nnn => wordA 0xB nnn
  | .rnd x kk => wordXK 0xC x kk
  | .drw x y n => wordXYN 0xD x (regBits y) (BitVec.ofNat 4 n)
  | .skp x => wordXK 0xE x 0x9E
  | .sknp x => wordXK 0xE x 0xA1
  | .ldVxDt x => wordXK 0xF x 0x07
  | .ldVxK x => wordXK 0xF x 0x0A
  | .ldDtVx x => wordXK 0xF x 0x15
  | .ldStVx x => wordXK 0xF x 0x18
  | .addIVx x => wordXK 0xF x 0x1E
  | .ldFVx x => wordXK 0xF x 0x29
  | .ldBVx x => wordXK 0xF x 0x33
  | .ldMemVx x => wordXK 0xF x 0x55
  | .ldVxMem x => wordXK 0xF x 0x65

/-- The two bytes of an instruction. -/
def encodeBytes (i : Instr) : List Byte := bytesOfWord (encode i)

/-! ### The opcode map of R96, as the manual's table of match and mask -/

/-- The match and mask columns of one row. -/
structure OpRow where
  matchBits : Word
  mask : Word
  deriving DecidableEq, Repr

/-- The row selects the word. -/
def OpRow.selects (r : OpRow) (w : Word) : Bool := w &&& r.mask == r.matchBits

/-- The row of R96 that an instruction stands in. -/
def Instr.row : Instr → OpRow
  | .cls => ⟨0x00E0, 0xFFFF⟩
  | .ret => ⟨0x00EE, 0xFFFF⟩
  | .jp _ => ⟨0x1000, 0xF000⟩
  | .call _ => ⟨0x2000, 0xF000⟩
  | .seVxKk _ _ => ⟨0x3000, 0xF000⟩
  | .sneVxKk _ _ => ⟨0x4000, 0xF000⟩
  | .seVxVy _ _ _ => ⟨0x5000, 0xF000⟩
  | .ldVxKk _ _ => ⟨0x6000, 0xF000⟩
  | .addVxKk _ _ => ⟨0x7000, 0xF000⟩
  | .ldVxVy _ _ => ⟨0x8000, 0xF00F⟩
  | .or _ _ => ⟨0x8001, 0xF00F⟩
  | .and _ _ => ⟨0x8002, 0xF00F⟩
  | .xor _ _ => ⟨0x8003, 0xF00F⟩
  | .addVxVy _ _ => ⟨0x8004, 0xF00F⟩
  | .sub _ _ => ⟨0x8005, 0xF00F⟩
  | .shr _ _ => ⟨0x8006, 0xF00F⟩
  | .subn _ _ => ⟨0x8007, 0xF00F⟩
  | .shl _ _ => ⟨0x800E, 0xF00F⟩
  | .sneVxVy _ _ _ => ⟨0x9000, 0xF000⟩
  | .ldINnn _ => ⟨0xA000, 0xF000⟩
  | .jpV0 _ => ⟨0xB000, 0xF000⟩
  | .rnd _ _ => ⟨0xC000, 0xF000⟩
  | .drw _ _ _ => ⟨0xD000, 0xF000⟩
  | .skp _ => ⟨0xE09E, 0xF0FF⟩
  | .sknp _ => ⟨0xE0A1, 0xF0FF⟩
  | .ldVxDt _ => ⟨0xF007, 0xF0FF⟩
  | .ldVxK _ => ⟨0xF00A, 0xF0FF⟩
  | .ldDtVx _ => ⟨0xF015, 0xF0FF⟩
  | .ldStVx _ => ⟨0xF018, 0xF0FF⟩
  | .addIVx _ => ⟨0xF01E, 0xF0FF⟩
  | .ldFVx _ => ⟨0xF029, 0xF0FF⟩
  | .ldBVx _ => ⟨0xF033, 0xF0FF⟩
  | .ldMemVx _ => ⟨0xF055, 0xF0FF⟩
  | .ldVxMem _ => ⟨0xF065, 0xF0FF⟩

/-- The rows of the families with one level: the family nibble alone selects (R95). -/
def rowsOneLevel : List OpRow :=
  [⟨0x1000, 0xF000⟩, ⟨0x2000, 0xF000⟩, ⟨0x3000, 0xF000⟩, ⟨0x4000, 0xF000⟩, ⟨0x5000, 0xF000⟩, ⟨0x6000, 0xF000⟩] ++
  [⟨0x7000, 0xF000⟩, ⟨0x9000, 0xF000⟩, ⟨0xA000, 0xF000⟩, ⟨0xB000, 0xF000⟩, ⟨0xC000, 0xF000⟩, ⟨0xD000, 0xF000⟩]

/-- The rows of family 0x8. -/
def rowsFamily8 : List OpRow :=
  [⟨0x8000, 0xF00F⟩, ⟨0x8001, 0xF00F⟩, ⟨0x8002, 0xF00F⟩, ⟨0x8003, 0xF00F⟩, ⟨0x8004, 0xF00F⟩, ⟨0x8005, 0xF00F⟩] ++
  [⟨0x8006, 0xF00F⟩, ⟨0x8007, 0xF00F⟩, ⟨0x800E, 0xF00F⟩]

/-- The rows of families 0x0, 0xE and 0xF. -/
def rowsFamilies0EF : List OpRow :=
  [⟨0x00E0, 0xFFFF⟩, ⟨0x00EE, 0xFFFF⟩, ⟨0xE09E, 0xF0FF⟩, ⟨0xE0A1, 0xF0FF⟩, ⟨0xF007, 0xF0FF⟩, ⟨0xF00A, 0xF0FF⟩] ++
  [⟨0xF015, 0xF0FF⟩, ⟨0xF018, 0xF0FF⟩, ⟨0xF01E, 0xF0FF⟩, ⟨0xF029, 0xF0FF⟩, ⟨0xF033, 0xF0FF⟩, ⟨0xF055, 0xF0FF⟩] ++
  [⟨0xF065, 0xF0FF⟩]

/-- All 34 rows of the opcode map (R96). -/
def opcodeMap : List OpRow := rowsOneLevel ++ rowsFamily8 ++ rowsFamilies0EF

end Sys2Proof
end

