-- ==== Sys2Proof/Config.lean ====
section
/-! DEFINITION. What is fixed for the machine: the sizes of 00_scope.md R5, and the one free value, the random port.
The parameters FONT and RND_SET of R6 are arguments: Machine/Params.lean. -/

namespace Sys2Proof.Config

/-- `MEM_SIZE`: addresses 0x000..0xFFF (R5, 20_memory.md R60). -/
def memSize : Nat := 4096

/-- `FONT_BASE` (R5). -/
def fontBase : Nat := 0x050

/-- `PROG_BASE`, where the host's load puts the program image, and the reset value of `pc` (R5). -/
def progBase : Nat := 0x200

/-- The longest program image, `4096 - 0x200` (R5, 48_interfaces.md R234). -/
def maxImage : Nat := 3584

/-- The random port (48_interfaces.md R238): the byte it presents to the draw with the given number, before RND_SET
narrows it (`RndSet.present`). A FREE VALUE: it has no body, so nothing can be proved of the byte but that it is one of
0..255 (DESIGN CHOICE, safe for the value, log 2). -/
opaque rnd : Nat → Byte

end Sys2Proof.Config
end

