-- ==== Sys2Proof/Machine/Params.lean ====
section
/-! DEFINITION. The two parameters of the model, FONT and RND_SET (00_scope.md R6), and the defaults the spec gives. -/

namespace Sys2Proof.Machine

/-- The parameter FONT: the 80 bytes of the font, glyph by glyph, five bytes each, top row first (R6, 10_state.md R33). -/
abbrev Font := Vector Byte 80

/-- The parameter RND_SET: the bytes that the random port may present (R6, 48_interfaces.md R238), as one byte that it
may present and a list of those that it may not. Every set of bytes but the empty one can be written so. -/
structure RndSet where
  sample : Byte
  excluded : List Byte
  deriving DecidableEq, Repr

/-- The byte is in the set. -/
def RndSet.admits (set : RndSet) (b : Byte) : Bool := !set.excluded.contains b || b == set.sample

/-- The byte that a port with this set presents, from a byte on which nothing is known (log 2). -/
def RndSet.present (set : RndSet) (b : Byte) : Byte := if set.admits b then b else set.sample

/-- The arguments that R6 has a model take. -/
structure Params where
  font : Font
  rndSet : RndSet
  deriving DecidableEq, Repr

/-- Glyphs 0 to 7 of the default FONT (10_state.md R33). -/
def fontLow : List Byte :=
  [0xF0, 0x90, 0x90, 0x90, 0xF0] ++ [0x20, 0x60, 0x20, 0x20, 0x70] ++
  [0xF0, 0x10, 0xF0, 0x80, 0xF0] ++ [0xF0, 0x10, 0xF0, 0x10, 0xF0] ++
  [0x90, 0x90, 0xF0, 0x10, 0x10] ++ [0xF0, 0x80, 0xF0, 0x10, 0xF0] ++
  [0xF0, 0x80, 0xF0, 0x90, 0xF0] ++ [0xF0, 0x10, 0x20, 0x40, 0x40]

/-- Glyphs 8 to F of the default FONT. -/
def fontHigh : List Byte :=
  [0xF0, 0x90, 0xF0, 0x90, 0xF0] ++ [0xF0, 0x90, 0xF0, 0x10, 0xF0] ++
  [0xF0, 0x90, 0xF0, 0x90, 0x90] ++ [0xE0, 0x90, 0xE0, 0x90, 0xE0] ++
  [0xF0, 0x80, 0x80, 0x80, 0xF0] ++ [0xE0, 0x90, 0x90, 0x90, 0xE0] ++
  [0xF0, 0x80, 0xF0, 0x80, 0xF0] ++ [0xF0, 0x80, 0xF0, 0x80, 0x80]

/-- The bytes of the default FONT, which the spec takes from general knowledge. PRESUMED, unsafe (log 1). -/
def defaultFontBytes : List Byte := fontLow ++ fontHigh

/-- The default FONT. -/
def defaultFont : Font := ⟨defaultFontBytes.toArray, rfl⟩

/-- The default RND_SET, all of 0..255, which R6 recommends. -/
def RndSet.full : RndSet := ⟨0, []⟩

/-- The RND_SET of the source's generator, 0..254 (R6, 44_family_9_to_C.md R183). -/
def RndSet.source : RndSet := ⟨0, [255]⟩

/-- The parameters at their defaults (R6). -/
def Params.default : Params := ⟨defaultFont, RndSet.full⟩

end Sys2Proof.Machine
end

