-- ==== Sys2Proof/Machine/State.lean ====
section
/-! DEFINITION. The whole state of the core (10_state.md R20), its reset value (R37), and the reasons a step can end in. -/

namespace Sys2Proof.Machine

/-- The five fault causes of 60_exceptions.md R261. The spec gives the state after a fault (R262), so a cause is
RECORDED in the latch `State.fault` of a NEXT state; no step answers `Host.Outcome.fault` (log 4, safe). -/
inductive Fault where
  /-- Raised by the fetch of a cycle when `pc > 0xFFE` (R264). Safe: the core stops, as the spec says. -/
  | fetchOob
  /-- Raised by `Dxyn`, `Fx33`, `Fx55`, `Fx65` when a byte address they would use is above 4095 (R265). Safe. -/
  | memOob
  /-- Raised by `2nnn` when `sp = 16` (R266). Safe. -/
  | stackOverflow
  /-- Raised by `00EE` when `sp = 0` (R267). Safe. -/
  | stackUnderflow
  /-- Raised by `Ex9E` and `ExA1` when `V[x] > 15` (R268). Safe. -/
  | keyIndexOob
  deriving DecidableEq, Repr

/-- Why a move has no meaning. No instruction is refused; the last two are answers of the HOST's load move. -/
inductive Refusal where
  /-- An instruction whose arm of `exec` has no meaning yet: none is left. Safe. -/
  | notModelled (mnemonic : String)
  /-- Raised by the host's load of an image of more than 3584 bytes (48_interfaces.md R234). Safe: nothing changes. -/
  | loadTooLong
  /-- Raised by a load after a cycle has run, or a second load (48_interfaces.md R235). Safe: nothing changes. -/
  | loadOutOfTurn
  deriving DecidableEq, Repr

/-- The record a raise leaves in the latch (R261): `info` as R261 gives it for the cause, and the `pc` of the start of
the faulting cycle (the spec's `at`). `info` is a plain number, since R261 gives it no width (log 14). -/
structure FaultRecord where
  cause : Fault
  info : Nat
  atPc : Word
  deriving DecidableEq, Repr

/-- Memory: the bytes that differ from their reset contents with the default FONT, as (address, byte), addresses strictly rising. What an
unlisted address reads as, and the canonical form, are in Machine/Memory.lean (log 10). -/
abbrev Memory := List Host.Cell

/-- One row of the display, column 0 the left one (R30). -/
abbrev PixelRow := Vector Bool 64

/-- The display buffer, row 0 the top one (R30). -/
abbrev Display := Vector PixelRow 32

/-- The state of the core (R20), and after it the model's own draw counter and parameters. -/
structure State where
  /-- `V[0]`..`V[15]` (R21) -/
  v : Vector Byte 16
  /-- `I` (R23) -/
  i : Word
  /-- `pc` (R24) -/
  pc : Word
  /-- `stack[0]`..`stack[15]` (R25) -/
  stack : Vector Word 16
  /-- `sp`, 0..16 (R26) -/
  sp : Fin 17
  /-- `DT` (R27) -/
  dt : Byte
  /-- `ST` (R28) -/
  st : Byte
  /-- `mem` (R29) -/
  mem : Memory
  /-- `disp` (R30) -/
  disp : Display
  /-- `key`: true is down (R31) -/
  key : Vector Bool 16
  /-- `opcode`, scratch of the cycle (R32, log 5) -/
  opcode : Word
  /-- `fault`: none is NONE (R34) -/
  fault : Option FaultRecord
  /-- THE MODEL'S OWN: how many random bytes have been drawn. The next one comes from
  `Config.rnd draws` (log 2). -/
  draws : Nat
  /-- THE MODEL'S OWN: the parameters FONT and RND_SET (00_scope.md R6), which nothing changes (log 15). -/
  params : Params
  deriving DecidableEq, Repr

/-- A display with every pixel off. -/
def blankDisplay : Display := Vector.replicate 32 (Vector.replicate 64 false)

/-- The state after reset (R37, 70_reset_and_hazards.md R300) with the parameters at their defaults, so that memory
lists nothing. `State.resetWith` takes them as an argument. -/
def State.reset : State where
  v := Vector.replicate 16 0
  i := 0
  pc := BitVec.ofNat 16 Config.progBase
  stack := Vector.replicate 16 0
  sp := 0
  dt := 0
  st := 0
  mem := []
  disp := blankDisplay
  key := Vector.replicate 16 false
  opcode := 0
  fault := none
  draws := 0
  params := Params.default

end Sys2Proof.Machine
end

