-- ==== Sys2Proof/Machine/Flags.lean ====
section
/-! DEFINITION. The values written to VF as a flag (10_state.md R22); the collision flag of `Dxyn` is computed by the
draw (Machine/Ops.lean). -/

namespace Sys2Proof.Machine

/-- A flag as the byte that VF takes: 1 or 0. -/
def flagByte (b : Bool) : Byte := if b then 1 else 0

/-- `8xy4`: the unwrapped sum is greater than 255 (43_family_8.md R164). -/
def carryOut (a b : Byte) : Bool := decide (a.toNat + b.toNat > 255)

/-- `8xy5`, `8xy7`: strictly greater, so that equal operands give 0 (43_family_8.md R165, R167). -/
def greaterFlag (a b : Byte) : Bool := decide (a.toNat > b.toNat)

/-- `8xy6`: the bit shifted out on the right (43_family_8.md R166). -/
def lowBit (a : Byte) : Bool := a.getLsbD 0

/-- `8xyE`: the bit shifted out on the left (43_family_8.md R168). -/
def highBit (a : Byte) : Bool := a.getLsbD 7

end Sys2Proof.Machine
end

