-- ==== Sys2Proof/Machine/Memory.lean ====
section
/-! DEFINITION. The memory array (20_memory.md R60 to R69): what an unlisted address reads as, reading and writing one
byte, and the canonical form that writing keeps. -/

namespace Sys2Proof.Machine

/-- What an address reads as when memory lists nothing for it: the reset contents (10_state.md R37) with the default
FONT, its bytes at 0x050..0x09F and 0 elsewhere. With another FONT, reset lists the bytes that differ (`State.resetWith`,
log 10). -/
def resetByte (a : Nat) : Byte :=
  if Config.fontBase ≤ a ∧ a < Config.fontBase + 80 then defaultFontBytes.getD (a - Config.fontBase) 0
  else 0

/-- The byte at an address (R69: reading changes nothing). -/
def Memory.read : Memory → Nat → Byte
  | [], a => resetByte a
  | (k, b) :: m, a => if k = a then b else Memory.read m a

/-- List a byte at its place among rising addresses, in place of one listed there before. -/
def Memory.insert (a : Nat) (b : Byte) : Memory → Memory
  | [] => [(a, b)]
  | (k, c) :: m =>
    if a < k then (a, b) :: (k, c) :: m
    else if a = k then (a, b) :: m
    else (k, c) :: Memory.insert a b m

/-- Write one byte. Writing the reset contents unlists the address, so that equal memories are equal lists. -/
def Memory.write (m : Memory) (a : Nat) (b : Byte) : Memory :=
  if b = resetByte a then m.filter (fun c => c.1 ≠ a) else Memory.insert a b m

/-- Write bytes at rising addresses from `a`. -/
def Memory.writeBytes (m : Memory) (a : Nat) : List Byte → Memory
  | [] => m
  | b :: bs => Memory.writeBytes (Memory.write m a b) (a + 1) bs

/-- The canonical form: addresses strictly rising and inside memory, no byte equal to its reset contents. -/
abbrev Memory.wf (m : Memory) : Prop :=
  List.Pairwise (fun c d : Host.Cell => c.1 < d.1) m ∧ ∀ c ∈ m, c.1 < Config.memSize ∧ c.2 ≠ resetByte c.1

end Sys2Proof.Machine
end

