-- ==== Sys2Proof/Machine/Ops.lean ====
section
/-! DEFINITION. The named operations over the state that the meanings are built from: one accessor for each piece of
state, control flow, raising a fault, bounds-checked memory, drawing, the timer tick and the fetch. -/

namespace Sys2Proof.Machine

/-! ### One read and one write for each piece of state -/

/-- `V[x]`. -/
def State.readV (x : Reg) (s : State) : Byte := s.v[x]

/-- `V[x] <- b`. -/
def State.writeV (x : Reg) (b : Byte) (s : State) : State := { s with v := s.v.set x b }

/-- `VF <- b`, for a flag (10_state.md R22). -/
def State.writeFlag (b : Bool) (s : State) : State := s.writeV VF (flagByte b)

/-- `I <- w`. -/
def State.setI (w : Word) (s : State) : State := { s with i := w }

/-- `pc <- w`. -/
def State.setPc (w : Word) (s : State) : State := { s with pc := w }

/-- `DT <- b`. -/
def State.setDT (b : Byte) (s : State) : State := { s with dt := b }

/-- `ST <- b`. -/
def State.setST (b : Byte) (s : State) : State := { s with st := b }

/-- The memory after a store. -/
def State.setMem (m : Memory) (s : State) : State := { s with mem := m }

/-- The display after a draw or a clear. -/
def State.setDisp (d : Display) (s : State) : State := { s with disp := d }

/-- `opcode <- w`. -/
def State.setOpcode (w : Word) (s : State) : State := { s with opcode := w }

/-- The keypad as the host writes it (48_interfaces.md R237). -/
def State.setKey (k : Vector Bool 16) (s : State) : State := { s with key := k }

/-- `fault <- f`. -/
def State.setFault (f : Option FaultRecord) (s : State) : State := { s with fault := f }

/-- Call-stack entry `j <- w`. -/
def State.setStack (j : Fin 16) (w : Word) (s : State) : State := { s with stack := s.stack.set j w }

/-- `sp <- p`. -/
def State.setSp (p : Fin 17) (s : State) : State := { s with sp := p }

/-- One random byte has been drawn. -/
def State.nextDraw (s : State) : State := { s with draws := s.draws + 1 }

/-- The byte on the random port (48_interfaces.md R238): a free value within RND_SET, fresh with each draw (log 2). -/
def State.randomByte (s : State) : Byte := s.params.rndSet.present (Config.rnd s.draws)

/-! ### Control flow. While an instruction executes `pc` holds the next sequential address (40_cycle.md R122). -/

/-- The address `a` of the executing instruction (log 12). -/
def State.instrAddr (s : State) : Word := s.pc - 2

/-- `pc <- pc + 2`: the cycle's advance, and a skip. -/
def State.advance (s : State) : State := s.setPc (s.pc + 2)

/-- Skip the next word if the condition holds (00_scope.md R14, "Skip"). -/
def State.skipIf (c : Bool) (s : State) : State := if c then s.advance else s

/-- Push `pc` at entry `j` (which is `sp`), raise `sp`, jump (41_family_0_to_2.md R143). -/
def State.pushAndJump (j : Fin 16) (target : Word) (s : State) : State :=
  ((s.setStack j s.pc).setSp j.succ).setPc target

/-- Lower `sp` to `j`, jump to entry `j` (41_family_0_to_2.md R141). The entry keeps its value (10_state.md R25). -/
def State.popAndJump (j : Fin 16) (s : State) : State :=
  (s.setSp j.castSucc).setPc s.stack[j]

/-! ### Raising a fault (60_exceptions.md R260 to R263) -/

/-- Set the latch (10_state.md R34). -/
def State.latch (cause : Fault) (info : Nat) (a : Word) (s : State) : State :=
  s.setFault (some ⟨cause, info, a⟩)

/-- `raise cause(info)` in an instruction: the latch records the instruction's own address (00_scope.md R10). The
cycle keeps nothing else of the state this leaves (`State.commit`, R262). There is no return from a fault but reset
(R263, R271). -/
def State.raise (cause : Fault) (info : Nat) (s : State) : Host.Outcome State Fault Refusal :=
  .next (s.latch cause info s.instrAddr)

/-! ### Memory access (20_memory.md R62, R66, R67) -/

/-- Check the addresses `base`..`base + count - 1`, formed without wrap, before anything is written; report the lowest
one out of range (R66). An access of no bytes uses no address. -/
def State.checked (base count : Nat) (s : State) (run : State → Host.Outcome State Fault Refusal) :
    Host.Outcome State Fault Refusal :=
  if 1 ≤ count ∧ base + count - 1 > 4095 then s.raise .memOob (max base 4096) else run s

/-- Store bytes at rising addresses from `base` (00_scope.md R10, `MemWrite`). -/
def State.storeBytes (base : Nat) (bs : List Byte) (s : State) : State := s.setMem (s.mem.writeBytes base bs)

/-- The registers `V[0]`..`V[count-1]` as `Fx55` stores them (47_family_F.md R217). -/
def State.lowRegs (count : Nat) (s : State) : List Byte := s.v.toList.take count

/-- `V[r] <- mem[base + r]` for `r` below `count` (47_family_F.md R218): no load reads a register, so the loads are
written together (log 13). -/
def State.loadLowRegs (base count : Nat) (s : State) : State :=
  { s with v := Vector.ofFn fun r : Fin 16 => if r.val < count then s.mem.read (base + r.val) else s.v[r] }

/-- The state after reset with these parameters (10_state.md R37): the reset of every other piece of state does not
depend on them. -/
def State.resetWith (p : Params) : State :=
  { State.reset with mem := Memory.writeBytes [] Config.fontBase p.font.toList, params := p }

/-! ### Drawing (45_family_D.md R190, R191) -/

/-- One pixel. -/
def pixel (d : Display) (r : Fin 32) (c : Fin 64) : Bool := d[r][c]

/-- `disp[r][c] <- disp[r][c] ^ 1`. -/
def togglePixel (d : Display) (r : Fin 32) (c : Fin 64) : Display := d.set r (d[r].set c (!d[r][c]))

/-- A display being drawn on, and whether a pixel that was on has been toggled. -/
structure Canvas where
  disp : Display
  hit : Bool
  deriving DecidableEq, Repr

/-- The pixel is tested before the toggle. -/
def Canvas.draw (k : Canvas) (r : Fin 32) (c : Fin 64) : Canvas :=
  ⟨togglePixel k.disp r c, k.hit || pixel k.disp r c⟩

/-- One sprite row at display row `r`: bit 7 is the leftmost pixel (R191), and columns wrap. -/
def Canvas.drawRow (b : Byte) (r : Fin 32) (x0 : Nat) (k : Canvas) : Canvas :=
  (List.range 8).foldl (fun k c => if b.getLsbD (7 - c) then k.draw r (Fin.ofNat 64 (x0 + c)) else k) k

/-- `n` sprite rows from memory, from the top down; rows wrap. -/
def Canvas.drawSprite (m : Memory) (base n x0 y0 : Nat) (k : Canvas) : Canvas :=
  (List.range n).foldl (fun k r => k.drawRow (m.read (base + r)) (Fin.ofNat 32 (y0 + r)) x0) k

/-- The display and VF after drawing at the position of the two coordinate bytes, which were read before VF is
written. -/
def State.drawAt (vx vy : Byte) (n : Nat) (s : State) : State :=
  let k := Canvas.drawSprite s.mem s.i.toNat n (vx.toNat % 64) (vy.toNat % 32) ⟨s.disp, false⟩
  (s.setDisp k.disp).writeFlag k.hit

/-! ### Keypad (46_family_E.md, 47_family_F.md R211) -/

/-- The least key that is down (R211). -/
def State.leastKey (s : State) : Option (Fin 16) := (List.finRange 16).find? fun k => s.key[k]

/-- Run with the key that `V[x]` numbers, or fault when there is no such key; the number is not masked (R200, R268). -/
def State.withKey (k : Nat) (s : State) (run : Fin 16 → Host.Outcome State Fault Refusal) :
    Host.Outcome State Fault Refusal :=
  if h : k < 16 then run ⟨k, h⟩ else s.raise .keyIndexOob k

/-! ### Timer tick (40_cycle.md R126) -/

/-- One timer's tick: down by one, floored at 0. -/
def tickByte (t : Byte) : Byte := if t = 0 then 0 else t - 1

/-- Both timers tick, independently. -/
def State.tick (s : State) : State := (s.setDT (tickByte s.dt)).setST (tickByte s.st)

/-- What a cycle leaves, from the state before it and the state its instruction left: if the instruction raised, the
state before with the latch set and nothing else (60_exceptions.md R262); otherwise the timers tick. -/
def State.commit (before after : State) : State :=
  match after.fault with
  | some r => before.setFault (some r)
  | none => after.tick

/-! ### Fetch (40_cycle.md R121, R122) -/

/-- The fetch would read outside memory. -/
def State.fetchFails (s : State) : Bool := decide (s.pc.toNat > 0xFFE)

/-- The word at `pc`, the high byte at the lower address (20_memory.md R63). -/
def State.fetchWord (s : State) : Word := s.mem.read s.pc.toNat ++ s.mem.read (s.pc.toNat + 1)

/-- The state an instruction executes in: the word latched and `pc` advanced. -/
def State.fetched (s : State) : State := (s.setOpcode s.fetchWord).advance

/-- The state with a word placed at `pc`, where the next cycle fetches; a byte past the end of memory is not placed. -/
def State.placeWord (bytes : List Byte) (s : State) : State :=
  s.storeBytes s.pc.toNat (bytes.take (Config.memSize - s.pc.toNat))

end Sys2Proof.Machine
end

