-- ==== Sys2Proof/Machine/Operands.lean ====
section
/-! DEFINITION. The operand forms (30_encoding.md R94): registers and immediates are read as the unsigned numbers their
bits spell, and widened with zeros (00_scope.md R8). -/

namespace Sys2Proof.Machine

/-- The immediate `nnn` as an address, zero-extended to 16 bits. -/
def addrOperand (nnn : Addr12) : Word := nnn.setWidth 16

/-- The target of `Bnnn`: `V[0] + nnn`, which fits 16 bits and is not masked (44_family_9_to_C.md R182). -/
def offsetTarget (v0 : Byte) (nnn : Addr12) : Word := BitVec.ofNat 16 (v0.toNat + nnn.toNat)

/-- The memory address `I` as an exact number (20_memory.md R67). -/
def State.base (s : State) : Nat := s.i.toNat

/-- `I + V[x]`, wrapped at 16 bits (47_family_F.md R214). -/
def indexPlus (i : Word) (b : Byte) : Word := BitVec.ofNat 16 (i.toNat + b.toNat)

/-- The address of the glyph that a byte numbers, all eight bits used (47_family_F.md R215). -/
def glyphAddr (b : Byte) : Word := BitVec.ofNat 16 (0x50 + 5 * b.toNat)

/-- The three decimal digits of a byte, hundreds first (47_family_F.md R216). -/
def decimalDigits (b : Byte) : List Byte :=
  [BitVec.ofNat 8 (b.toNat / 100), BitVec.ofNat 8 (b.toNat / 10 % 10), BitVec.ofNat 8 (b.toNat % 10)]

/-- A key number as the byte that `Fx0A` writes (47_family_F.md R211). -/
def keyByte (k : Fin 16) : Byte := BitVec.ofNat 8 k.val

end Sys2Proof.Machine
end

