-- ==== Sys2Proof/Machine/Arith.lean ====
section
/-! DEFINITION. Load and add immediate (42_family_3_to_7.md R153, R154) and family 0x8 (43_family_8.md). Where a flag
and a result are both written, the two writes stand in the order of the rule and the second reads what the first left
(00_scope.md R11). -/

namespace Sys2Proof.Machine

/-- `6xkk` (R153). -/
def execLdVxKk (x : Reg) (kk : Byte) (s : State) : Host.Outcome State Fault Refusal :=
  .next (s.writeV x kk)

/-- `7xkk` (R154): the sum wraps and no flag is written. -/
def execAddVxKk (x : Reg) (kk : Byte) (s : State) : Host.Outcome State Fault Refusal :=
  .next (s.writeV x (s.readV x + kk))

/-- `8xy0` (R160). -/
def execLdVxVy (x y : Reg) (s : State) : Host.Outcome State Fault Refusal :=
  .next (s.writeV x (s.readV y))

/-- `8xy1` (R161). -/
def execOr (x y : Reg) (s : State) : Host.Outcome State Fault Refusal :=
  .next (s.writeV x (s.readV x ||| s.readV y))

/-- `8xy2` (R162). -/
def execAnd (x y : Reg) (s : State) : Host.Outcome State Fault Refusal :=
  .next (s.writeV x (s.readV x &&& s.readV y))

/-- `8xy3` (R163). -/
def execXor (x y : Reg) (s : State) : Host.Outcome State Fault Refusal :=
  .next (s.writeV x (s.readV x ^^^ s.readV y))

/-- `8xy4` (R164): the sum from the operands before the instruction, then the carry. -/
def execAddVxVy (x y : Reg) (s : State) : Host.Outcome State Fault Refusal :=
  .next ((s.writeV x (s.readV x + s.readV y)).writeFlag (carryOut (s.readV x) (s.readV y)))

/-- `V[x] <- (V[a] - V[b]) mod 256` on the state the flag write left. -/
def State.subInto (x a b : Reg) (s : State) : State := s.writeV x (s.readV a - s.readV b)

/-- `8xy5` (R165): the flag first. -/
def execSub (x y : Reg) (s : State) : Host.Outcome State Fault Refusal :=
  .next ((s.writeFlag (greaterFlag (s.readV x) (s.readV y))).subInto x x y)

/-- `8xy7` (R167): the flag first. -/
def execSubn (x y : Reg) (s : State) : Host.Outcome State Fault Refusal :=
  .next ((s.writeFlag (greaterFlag (s.readV y) (s.readV x))).subInto x y x)

/-- `V[x] <- V[x] >> 1`, logical. -/
def State.shiftRight (x : Reg) (s : State) : State := s.writeV x (s.readV x >>> 1)

/-- `V[x] <- V[x] << 1`, wrapped to 8 bits. -/
def State.shiftLeft (x : Reg) (s : State) : State := s.writeV x (s.readV x <<< 1)

/-- `8xy6` (R166): the flag first; the `y` field has no effect. -/
def execShr (x : Reg) (_z : Nibble) (s : State) : Host.Outcome State Fault Refusal :=
  .next ((s.writeFlag (lowBit (s.readV x))).shiftRight x)

/-- `8xyE` (R168): the flag first; the `y` field has no effect. -/
def execShl (x : Reg) (_z : Nibble) (s : State) : Host.Outcome State Fault Refusal :=
  .next ((s.writeFlag (highBit (s.readV x))).shiftLeft x)

end Sys2Proof.Machine
end

