-- ==== Sys2Proof/Machine/Block.lean ====
section
/-! DEFINITION. Decimal digits, and block store and load (47_family_F.md R216 to R218). `I` is not changed by them. -/

namespace Sys2Proof.Machine

/-- `Fx33` (R216). -/
def execLdBVx (x : Reg) (s : State) : Host.Outcome State Fault Refusal :=
  s.checked s.base 3 fun s => .next (s.storeBytes s.base (decimalDigits (s.readV x)))

/-- `Fx55` (R217): `V[0]`..`V[x-1]`, not `V[x]`. -/
def execLdMemVx (x : Reg) (s : State) : Host.Outcome State Fault Refusal :=
  s.checked s.base x.val fun s => .next (s.storeBytes s.base (s.lowRegs x.val))

/-- `Fx65` (R218): `V[0]`..`V[x-1]`, not `V[x]`. -/
def execLdVxMem (x : Reg) (s : State) : Host.Outcome State Fault Refusal :=
  s.checked s.base x.val fun s => .next (s.loadLowRegs s.base x.val)

end Sys2Proof.Machine
end

