-- ==== Sys2Proof/Machine/Drawing.lean ====
section
/-! DEFINITION. Clear the display (41_family_0_to_2.md R140) and draw a sprite (45_family_D.md R190). -/

namespace Sys2Proof.Machine

/-- `00E0` (R140). -/
def execCls (s : State) : Host.Outcome State Fault Refusal :=
  .next (s.setDisp blankDisplay)

/-- `Dxyn` (R190): the addresses of all rows are checked first; the coordinates are read before VF is written. -/
def execDrw (x y : Reg) (n : Nat) (s : State) : Host.Outcome State Fault Refusal :=
  s.checked s.base n fun s => .next (s.drawAt (s.readV x) (s.readV y) n)

end Sys2Proof.Machine
end

