-- ==== Sys2Proof/Machine/Flow.lean ====
section
/-! DEFINITION. Return, jump, call and jump with offset (41_family_0_to_2.md, 44_family_9_to_C.md R182). -/

namespace Sys2Proof.Machine

/-- `00EE` (R141): fault on an empty stack, else lower `sp` and take `pc` from the entry it then names. -/
def execRet (s : State) : Host.Outcome State Fault Refusal :=
  if h : s.sp = 0 then s.raise .stackUnderflow s.instrAddr.toNat else .next (s.popAndJump (s.sp.pred h))

/-- `1nnn` (R142). -/
def execJp (nnn : Addr12) (s : State) : Host.Outcome State Fault Refusal :=
  .next (s.setPc (addrOperand nnn))

/-- `2nnn` (R143): fault on a full stack, else push the return address and jump. -/
def execCall (nnn : Addr12) (s : State) : Host.Outcome State Fault Refusal :=
  if h : s.sp.val < 16 then .next (s.pushAndJump ⟨s.sp.val, h⟩ (addrOperand nnn))
  else s.raise .stackOverflow s.instrAddr.toNat

/-- `Bnnn` (R182): always `V[0]`, the sum not masked. -/
def execJpV0 (nnn : Addr12) (s : State) : Host.Outcome State Fault Refusal :=
  .next (s.setPc (offsetTarget (s.readV 0) nnn))

end Sys2Proof.Machine
end

