-- ==== Sys2Proof/Machine/Index.lean ====
section
/-! DEFINITION. The index register (44_family_9_to_C.md R181, 47_family_F.md R214, R215) and the random byte (R183). -/

namespace Sys2Proof.Machine

/-- `Annn` (R181). -/
def execLdINnn (nnn : Addr12) (s : State) : Host.Outcome State Fault Refusal :=
  .next (s.setI (addrOperand nnn))

/-- `Fx1E` (R214): wraps at 16 bits, no flag. -/
def execAddIVx (x : Reg) (s : State) : Host.Outcome State Fault Refusal :=
  .next (s.setI (indexPlus s.i (s.readV x)))

/-- `Fx29` (R215). -/
def execLdFVx (x : Reg) (s : State) : Host.Outcome State Fault Refusal :=
  .next (s.setI (glyphAddr (s.readV x)))

/-- `V[x] <- kk & r` with `r` the byte on the random port, which is drawn. -/
def State.writeRandom (x : Reg) (kk r : Byte) (s : State) : State := (s.writeV x (kk &&& r)).nextDraw

/-- `Cxkk` (R183): `r` is the free byte of this draw (log 2). -/
def execRnd (x : Reg) (kk : Byte) (s : State) : Host.Outcome State Fault Refusal :=
  .next (s.writeRandom x kk s.randomByte)

end Sys2Proof.Machine
end

