-- ==== Sys2Proof/Machine/Skips.lean ====
section
/-! DEFINITION. Skips on registers and on keys (42_family_3_to_7.md R150 to R152, 44_family_9_to_C.md R180,
46_family_E.md). -/

namespace Sys2Proof.Machine

/-- `3xkk` (R150). -/
def execSeVxKk (x : Reg) (kk : Byte) (s : State) : Host.Outcome State Fault Refusal :=
  .next (s.skipIf (s.readV x == kk))

/-- `4xkk` (R151). -/
def execSneVxKk (x : Reg) (kk : Byte) (s : State) : Host.Outcome State Fault Refusal :=
  .next (s.skipIf (s.readV x != kk))

/-- `5xyN` (R152): bits 3..0 have no effect. -/
def execSeVxVy (x y : Reg) (_z : Nibble) (s : State) : Host.Outcome State Fault Refusal :=
  .next (s.skipIf (s.readV x == s.readV y))

/-- `9xyN` (R180): bits 3..0 have no effect. -/
def execSneVxVy (x y : Reg) (_z : Nibble) (s : State) : Host.Outcome State Fault Refusal :=
  .next (s.skipIf (s.readV x != s.readV y))

/-- `Ex9E` (R200): skip if the key that `V[x]` numbers is down. -/
def execSkp (x : Reg) (s : State) : Host.Outcome State Fault Refusal :=
  s.withKey (s.readV x).toNat fun k => .next (s.skipIf s.key[k])

/-- `ExA1` (R201): skip if it is up. -/
def execSknp (x : Reg) (s : State) : Host.Outcome State Fault Refusal :=
  s.withKey (s.readV x).toNat fun k => .next (s.skipIf (!s.key[k]))

end Sys2Proof.Machine
end

