-- ==== Sys2Proof/Machine/Timers.lean ====
section
/-! DEFINITION. The timers and the key wait (47_family_F.md R210 to R213). The tick of the same cycle comes after
(40_cycle.md R126). -/

namespace Sys2Proof.Machine

/-- `Fx07` (R210). -/
def execLdVxDt (x : Reg) (s : State) : Host.Outcome State Fault Refusal :=
  .next (s.writeV x s.dt)

/-- `Fx0A` (R211): the least key that is down, or back to this instruction. -/
def execLdVxK (x : Reg) (s : State) : Host.Outcome State Fault Refusal :=
  match s.leastKey with
  | some k => .next (s.writeV x (keyByte k))
  | none => .next (s.setPc (s.pc - 2))

/-- `Fx15` (R212). -/
def execLdDtVx (x : Reg) (s : State) : Host.Outcome State Fault Refusal :=
  .next (s.setDT (s.readV x))

/-- `Fx18` (R213). -/
def execLdStVx (x : Reg) (s : State) : Host.Outcome State Fault Refusal :=
  .next (s.setST (s.readV x))

end Sys2Proof.Machine
end

