-- ==== Sys2Proof/Machine/Cycle.lean ====
section
/-! DEFINITION. One cycle (40_cycle.md R120): fetch, advance, decode, execute, timer tick, as one atomic step. -/

namespace Sys2Proof.Machine

/-- What follows the fetch: an unknown opcode is a two-byte no-op (R125); an instruction is executed on the fetched
state, and the cycle keeps what it left or, if it raised, only the latch (R262). -/
def State.execute (s : State) : Option Instr → Host.Outcome State Fault Refusal
  | none => .next s.fetched.tick
  | some i =>
    match exec i s.fetched with
    | .next t => .next (s.commit t)
    | .fault r => .fault r
    | .refused r => .refused r

/-- One cycle. A faulted core does nothing (R129); a fetch outside memory faults (R121). -/
def State.cycle (s : State) : Host.Outcome State Fault Refusal :=
  if s.fault.isSome then .next s
  else if s.fetchFails then .next (s.latch .fetchOob s.pc.toNat s.pc)
  else s.execute (decodeWord s.fetched.opcode)

/-- The event `unknown_opcode(word, addr)` (48_interfaces.md R241). -/
structure UnknownOpcode where
  word : Word
  addr : Word
  deriving DecidableEq, Repr

/-- The event that the cycle starting from a state signals to the host, if any (R241). It is not part of the state: no
instruction can observe it (log 9). -/
def State.unknownOpcode (s : State) : Option UnknownOpcode :=
  if s.fault.isSome || s.fetchFails then none
  else match decodeWord s.fetched.opcode with
    | none => some ⟨s.fetched.opcode, s.pc⟩
    | some _ => none

end Sys2Proof.Machine
end

