-- ==== Sys2Proof/Machine/Step.lean ====
section
/-! DEFINITION. The step of the machine is one cycle (40_cycle.md R120). It answers a next state on every state. -/

namespace Sys2Proof.Machine

/-- One cycle invocation. -/
def step (s : State) : Host.Outcome State Fault Refusal := s.cycle

/-- The state with a table word stored where the next cycle fetches, its high byte at the lower address; it stands for
the host's load of that word (48_interfaces.md R233, log 11). -/
def State.withFetchWord (s : State) (nbits w : Nat) : State := s.placeWord (bytesOfWord (wordOfTable nbits w))

end Sys2Proof.Machine
end

