-- ==== Sys2Proof/Machine/Moves.lean ====
section
/-! DEFINITION. The host's side of the interface (48_interfaces.md R230 to R243): its five moves, and what it reads. -/

namespace Sys2Proof.Machine

/-- How far the host has come since the last reset (R235). -/
inductive Phase where
  /-- No load yet, and no cycle. -/
  | fresh
  /-- The one load has been made, and no cycle has run. -/
  | loaded
  /-- A cycle has run. -/
  | running
  deriving DecidableEq, Repr

/-- The core, and how far the host has come. A session begins with a reset, the host's duty (R243). -/
structure Session where
  core : State
  phase : Phase
  deriving DecidableEq, Repr

/-- The moves of R243 that change something; the fifth, reading, changes nothing and is a function of the state. -/
inductive Move where
  | reset
  | load (image : List Byte)
  | writeKey (key : Vector Bool 16)
  | cycle
  deriving DecidableEq, Repr

/-- The session after the first reset, with these parameters (00_scope.md R6). -/
def Session.start (p : Params) : Session := ⟨State.resetWith p, .fresh⟩

/-- Reset puts every piece of the spec's state at its reset value, whatever it was (R232, R301). The
parameters stay, and the draw counter is the model's own and goes on, so that the bytes drawn after a reset are not
those drawn before it (log 3). -/
def State.afterReset (s : State) : State := { State.resetWith s.params with draws := s.draws }

/-- Copy a program image verbatim from 0x200 (R233). -/
def State.loadImage (image : List Byte) (s : State) : State := s.storeBytes Config.progBase image

/-- The load: once, after reset and before the first cycle (R235), and not longer than memory (R234); refused, it
changes nothing. -/
def Session.load (image : List Byte) (h : Session) : Host.Outcome Session Fault Refusal :=
  match h.phase with
  | .fresh =>
    if image.length ≤ Config.maxImage then .next ⟨h.core.loadImage image, .loaded⟩ else .refused .loadTooLong
  | .loaded => .refused .loadOutOfTurn
  | .running => .refused .loadOutOfTurn

/-- One cycle invocation (R236). -/
def Session.cycle (h : Session) : Host.Outcome Session Fault Refusal :=
  match step h.core with
  | .next t => .next ⟨t, .running⟩
  | .fault r => .fault r
  | .refused r => .refused r

/-- One move of the host (R243). -/
def applyMove : Move → Session → Host.Outcome Session Fault Refusal
  | .reset, h => .next ⟨h.core.afterReset, .fresh⟩
  | .load image, h => h.load image
  | .writeKey key, h => .next ⟨h.core.setKey key, h.phase⟩
  | .cycle, h => h.cycle

/-- The display read out row by row: pixel `(r, c)` at index `r * 64 + c` (R239). -/
def State.pixelList (s : State) : List Bool := s.disp.toList.flatMap fun row => row.toList

/-- The numeric code of a fault cause (60_exceptions.md R261), as the host reads the latch (R242). -/
def Fault.code : Fault → Nat
  | .fetchOob => 1
  | .memOob => 2
  | .stackOverflow => 3
  | .stackUnderflow => 4
  | .keyIndexOob => 5

end Sys2Proof.Machine
end

