-- ==== Sys2Proof/Safety.lean ====
section
/-! DEFINITION. The terms the statements use: what a good run is, the invariant of the machine, what may change and
what is kept, and the tables of the manual that speak of the whole machine. -/

namespace Sys2Proof.Machine

/-! ### Good states and the invariant -/

/-- The core has not gone wrong (60_exceptions.md R263: a fault is never a good final state). -/
def State.good (s : State) : Prop := s.fault = none

/-- A run of `k` cycles is safe: it ends in a state that has not gone wrong. A cycle never clears the latch (R129), so
no cycle of a safe run has raised. -/
def safeRun (k : Nat) (s : State) : Prop := ∃ t, Host.Core.run Sys2Proof.core k s = .next t ∧ t.good

/-- What a latched record says, cause by cause, with the `pc` it was recorded at (60_exceptions.md R261). -/
def FaultRecord.sane (r : FaultRecord) : Prop :=
  match r.cause with
  | .fetchOob => r.info = r.atPc.toNat ∧ 0xFFE < r.atPc.toNat
  | .memOob => 4096 ≤ r.info ∧ r.info ≤ 65535
  | .stackOverflow => r.info = r.atPc.toNat
  | .stackUnderflow => r.info = r.atPc.toNat
  | .keyIndexOob => 16 ≤ r.info ∧ r.info ≤ 255

/-- The invariant of the machine. -/
structure State.Inv (s : State) : Prop where
  /-- Memory is in canonical form. -/
  memWf : s.mem.wf
  /-- No rule gives `pc` more than 0x10FE (10_state.md R24), so its arithmetic never wraps. -/
  pcBound : s.pc.toNat ≤ 0x10FE
  /-- A return address is at most 0x1000 (41_family_0_to_2.md R143). -/
  stackBound : ∀ j : Fin 16, s.stack[j].toNat ≤ 0x1000
  /-- A fault is precise: `pc` still points at the faulting instruction (60_exceptions.md R262). -/
  latchAt : ∀ r, s.fault = some r → r.atPc = s.pc
  /-- The latch holds what R261 records. -/
  latchSane : ∀ r, s.fault = some r → r.sane

/-! ### Frames -/

/-- What a transition may change; a piece of state not named may not. `key` and `opcode` have no entry: no instruction
writes them (10_state.md R38), and nothing writes the parameters. -/
structure Writes where
  regs : Reg → Prop := fun _ => False
  i : Prop := False
  pc : Prop := False
  stack : Fin 16 → Prop := fun _ => False
  sp : Prop := False
  dt : Prop := False
  st : Prop := False
  mem : Nat → Prop := fun _ => False
  disp : Prop := False
  fault : Prop := False
  draws : Prop := False

/-- From `s` to `t`, everything but what `w` names is unchanged: every register, every call-stack entry and every byte of
memory that is not named, and every other piece of state. -/
structure Unchanged (w : Writes) (s t : State) : Prop where
  regs : ∀ r, ¬ w.regs r → t.readV r = s.readV r
  i : ¬ w.i → t.i = s.i
  pc : ¬ w.pc → t.pc = s.pc
  stack : ∀ j : Fin 16, ¬ w.stack j → t.stack[j] = s.stack[j]
  sp : ¬ w.sp → t.sp = s.sp
  dt : ¬ w.dt → t.dt = s.dt
  st : ¬ w.st → t.st = s.st
  mem : ∀ a, ¬ w.mem a → t.mem.read a = s.mem.read a
  disp : ¬ w.disp → t.disp = s.disp
  key : t.key = s.key
  opcode : t.opcode = s.opcode
  fault : ¬ w.fault → t.fault = s.fault
  draws : ¬ w.draws → t.draws = s.draws
  params : t.params = s.params

/-- The transition raised: nothing but the latch changed, and it holds this record. -/
def Raised (cause : Fault) (info : Nat) (a : Word) (s t : State) : Prop := t = { s with fault := some ⟨cause, info, a⟩ }

/-- The writers of each piece of state, instruction by instruction (10_state.md R38, with the flag writers of R22): what
an instruction that does not raise may change beyond the cycle's own work. -/
def instrWriters (i : Instr) (s : State) : Writes :=
  match i with
  | .cls => { disp := True }
  | .ret => { sp := True, pc := True }
  | .jp _ | .jpV0 _ => { pc := True }
  | .call _ => { stack := fun j => j.val = s.sp.val, sp := True, pc := True }
  | .seVxKk _ _ | .sneVxKk _ _ | .seVxVy _ _ _ | .sneVxVy _ _ _ | .skp _ | .sknp _ => { pc := True }
  | .ldVxKk x _ | .addVxKk x _ | .ldVxVy x _ | .or x _ | .and x _ | .xor x _ | .ldVxDt x => { regs := fun r => r = x }
  | .addVxVy x _ | .sub x _ | .shr x _ | .subn x _ | .shl x _ => { regs := fun r => r = x ∨ r = VF }
  | .ldINnn _ | .addIVx _ | .ldFVx _ => { i := True }
  | .rnd x _ => { regs := fun r => r = x, draws := True }
  | .drw _ _ _ => { regs := fun r => r = VF, disp := True }
  | .ldVxK x => { regs := fun r => r = x ∧ ∃ k : Fin 16, s.key[k] = true, pc := ∀ k : Fin 16, s.key[k] = false }
  | .ldDtVx _ => { dt := True }
  | .ldStVx _ => { st := True }
  | .ldBVx _ => { mem := fun a => s.base ≤ a ∧ a < s.base + 3 }
  | .ldMemVx x => { mem := fun a => s.base ≤ a ∧ a < s.base + x.val }
  | .ldVxMem x => { regs := fun r => r.val < x.val }

/-! ### Whole-machine tables of the manual -/

/-- The table of 60_exceptions.md R261 for the instructions: the cause and the recorded value, on the state before the
cycle, whose `pc` is the instruction's address. -/
def instrFault (i : Instr) (s : State) : Option (Fault × Nat) :=
  match i with
  | .drw _ _ n => if 1 ≤ n ∧ 4095 < s.i.toNat + n - 1 then some (.memOob, max s.i.toNat 4096) else none
  | .ldBVx _ => if 4095 < s.i.toNat + 2 then some (.memOob, max s.i.toNat 4096) else none
  | .ldMemVx x | .ldVxMem x =>
    if 1 ≤ x.val ∧ 4095 < s.i.toNat + x.val - 1 then some (.memOob, max s.i.toNat 4096) else none
  | .call _ => if s.sp.val = 16 then some (.stackOverflow, s.pc.toNat) else none
  | .ret => if s.sp.val = 0 then some (.stackUnderflow, s.pc.toNat) else none
  | .skp x | .sknp x => if 15 < (s.readV x).toNat then some (.keyIndexOob, (s.readV x).toNat) else none
  | .cls | .jp _ | .seVxKk _ _ | .sneVxKk _ _ | .seVxVy _ _ _ | .ldVxKk _ _ | .addVxKk _ _ | .ldVxVy _ _ => none
  | .or _ _ | .and _ _ | .xor _ _ | .addVxVy _ _ | .sub _ _ | .shr _ _ | .subn _ _ | .shl _ _ => none
  | .sneVxVy _ _ _ | .ldINnn _ | .jpV0 _ | .rnd _ _ | .ldVxDt _ | .ldVxK _ | .ldDtVx _ | .ldStVx _ => none
  | .addIVx _ | .ldFVx _ => none

/-- The record that R261 gives for the cycle starting from a state that is not faulted, if any: the fetch is checked
first (R269). -/
def State.faultOfCycle (s : State) : Option FaultRecord :=
  if 0xFFE < s.pc.toNat then some ⟨.fetchOob, s.pc.toNat, s.pc⟩
  else
    match decodeWord (wordOfBytes (s.mem.read s.pc.toNat) (s.mem.read (s.pc.toNat + 1))) with
    | none => none
    | some i =>
      match instrFault i s with
      | none => none
      | some (cause, info) => some ⟨cause, info, s.pc⟩

/-- Where `pc` stands at the end of a cycle that does not fault, from the state before it (10_state.md R24), as a
number. -/
def instrPcAfter (i : Instr) (s : State) : Nat :=
  match i with
  | .jp nnn | .call nnn => nnn.toNat
  | .jpV0 nnn => (s.readV 0).toNat + nnn.toNat
  | .ret => (s.stack[s.sp.val - 1]?.getD 0).toNat
  | .seVxKk x kk => if s.readV x = kk then s.pc.toNat + 4 else s.pc.toNat + 2
  | .sneVxKk x kk => if s.readV x ≠ kk then s.pc.toNat + 4 else s.pc.toNat + 2
  | .seVxVy x y _ => if s.readV x = s.readV y then s.pc.toNat + 4 else s.pc.toNat + 2
  | .sneVxVy x y _ => if s.readV x ≠ s.readV y then s.pc.toNat + 4 else s.pc.toNat + 2
  | .skp x => if s.key[(s.readV x).toNat]?.getD false = true then s.pc.toNat + 4 else s.pc.toNat + 2
  | .sknp x => if s.key[(s.readV x).toNat]?.getD false = false then s.pc.toNat + 4 else s.pc.toNat + 2
  | .ldVxK _ => if ∃ k : Fin 16, s.key[k] = true then s.pc.toNat + 2 else s.pc.toNat
  | .cls | .ldVxKk _ _ | .addVxKk _ _ | .ldVxVy _ _ | .or _ _ | .and _ _ | .xor _ _ | .addVxVy _ _ => s.pc.toNat + 2
  | .sub _ _ | .shr _ _ | .subn _ _ | .shl _ _ | .ldINnn _ | .rnd _ _ | .drw _ _ _ => s.pc.toNat + 2
  | .ldVxDt _ | .ldDtVx _ | .ldStVx _ | .addIVx _ | .ldFVx _ | .ldBVx _ | .ldMemVx _ | .ldVxMem _ => s.pc.toNat + 2

/-- A sprite of `n` rows at `I`, placed with its left top corner at column `x0` and row `y0`, has its bit for this pixel
set: row `r` and column `c` of the sprite fall on the pixel, with wrap-around, and bit `7 - c` of the row's byte is 1
(45_family_D.md R190, R191). -/
def State.spriteSets (s : State) (n x0 y0 : Nat) (rr : Fin 32) (cc : Fin 64) : Prop :=
  ∃ r < n, ∃ c < 8, (y0 + r) % 32 = rr.val ∧ (x0 + c) % 64 = cc.val ∧
    (s.mem.read (s.i.toNat + r)).getLsbD (7 - c) = true

end Sys2Proof.Machine
end

