-- ==== Sys2Proof/Certificates/Slice0/Obligations.lean ====
section
/-! DEFINITION. The statements for the provers, from the numbered rules of spec/. An instruction's statement speaks of
`exec` on the state its fetch left, where `pc` holds the address of the next word and `pc - 2` the instruction's own
(40_cycle.md R122, R124); `CycleRunsTheDecodedInstruction` carries them to a cycle. Results are stated in exact numbers,
and each statement of a result also says what is unchanged. -/

open Sys2Proof Sys2Proof.Machine

/-! ### Reset and the invariant -/

/-- R37: reset, row by row, for whatever FONT and RND_SET the model is given (R6); the reset state of the interface is
the one with the defaults. The `opcode` and `fault` rows are the spec's own choices (R32, R34, D29, D6). -/
def Obligations.ResetLeavesTheStatedValues : Prop :=
  State.reset = State.resetWith Params.default ∧
  ∀ p : Params,
    let s := State.resetWith p
    (∀ r : Reg, s.readV r = 0) ∧ s.i = 0 ∧ s.pc = 0x200 ∧ (∀ j : Fin 16, s.stack[j] = 0) ∧ s.sp = 0 ∧ s.dt = 0 ∧
    s.st = 0 ∧ (∀ k : Fin 80, s.mem.read (0x050 + k.val) = p.font[k]) ∧
    (∀ a, a < 0x050 ∨ 0x0A0 ≤ a → s.mem.read a = 0) ∧ (∀ r c, pixel s.disp r c = false) ∧
    (∀ k : Fin 16, s.key[k] = false) ∧ s.opcode = 0 ∧ s.fault = none ∧ s.params = p

/-- The invariant of Safety.lean holds after reset, whatever FONT and RND_SET are. -/
def Obligations.ResetMeetsTheInvariant : Prop := State.reset.Inv ∧ ∀ p : Params, (State.resetWith p).Inv

/-- Every cycle keeps the invariant, from every state that has it: memory stays canonical, `pc` stays at most 0x10FE and
return addresses at most 0x1000 (R24, R143), and a set latch is precise and holds what R261 records. -/
def Obligations.EveryCycleKeepsTheInvariant : Prop :=
  ∀ s t : State, s.Inv → step s = .next t → t.Inv

/-- Every move of the host keeps the invariant too, so it holds in every state that any host can bring about. -/
def Obligations.EveryHostMoveKeepsTheInvariant : Prop :=
  ∀ (m : Move) (h h' : Session), h.core.Inv → applyMove m h = .next h' → h'.core.Inv

/-! ### Encoding -/

/-- Decoding the bytes of a well-formed instruction gives it back, with the bytes after it, for every operand. -/
def Obligations.EncodedInstructionDecodes : Prop :=
  ∀ (i : Instr) (rest : List Byte), i.wellFormed → decode (encodeBytes i ++ rest) = .instr i rest

/-- Encoding what a word decodes to gives the word back, so no bit of a word is lost, and it is well-formed. -/
def Obligations.DecodedWordReencodes : Prop :=
  ∀ (w : Word) (i : Instr), decodeWord w = some i → encode i = w ∧ i.wellFormed = true

/-- The two-level decoder of R95 is the match-and-mask map of R96: an instruction's word selects its own row and no
other, and an unknown word selects none. Which bits the second level examines is the spec's decision D10. -/
def Obligations.DecoderFollowsTheOpcodeMap : Prop :=
  opcodeMap.length = 34 ∧
  ∀ w : Word,
    (∀ i, decodeWord w = some i → i.row ∈ opcodeMap ∧ ∀ r ∈ opcodeMap, w &&& r.mask = r.matchBits ↔ r = i.row) ∧
    (decodeWord w = none → ∀ r ∈ opcodeMap, w &&& r.mask ≠ r.matchBits)

/-- The unknown words are exactly those of R97's table, in the numbers of R91's fields. The count of R97 is the spec's
derivation, and its masks the decision D10. -/
def Obligations.UnknownWordsAreTheListedOnes : Prop :=
  ∀ w : Word,
    decodeWord w = none ↔
      (w.toNat / 4096 = 0x0 ∧ w.toNat ≠ 0x00E0 ∧ w.toNat ≠ 0x00EE) ∨
      (w.toNat / 4096 = 0x8 ∧ w.toNat % 16 ∈ [8, 9, 0xA, 0xB, 0xC, 0xD, 0xF]) ∨
      (w.toNat / 4096 = 0xE ∧ w.toNat % 256 ∉ [0x9E, 0xA1]) ∨
      (w.toNat / 4096 = 0xF ∧ w.toNat % 256 ∉ [0x07, 0x0A, 0x15, 0x18, 0x1E, 0x29, 0x33, 0x55, 0x65])

/-- R104: the three worked encodings, and the six bytes they stand as. -/
def Obligations.WorkedEncodingsDecode : Prop :=
  decodeWord 0x6005 = some (.ldVxKk 0 5) ∧ decodeWord 0x6103 = some (.ldVxKk 1 3) ∧
  decodeWord 0x8014 = some (.addVxVy 0 1) ∧
  encodeBytes (.ldVxKk 0 5) ++ encodeBytes (.ldVxKk 1 3) ++ encodeBytes (.addVxVy 0 1) =
    [0x60, 0x05, 0x61, 0x03, 0x80, 0x14]

/-! ### The cycle -/

/-- R63: the byte at `pc` is the high byte of the fetched word. -/
def Obligations.FetchIsBigEndian : Prop :=
  ∀ s : State, s.fetchWord.toNat = (s.mem.read s.pc.toNat).toNat * 256 + (s.mem.read (s.pc.toNat + 1)).toNat

/-- R120 to R126 for an instruction: when the two bytes at `pc` decode to `i`, the cycle is `exec i` on the state with
the word latched and `pc` advanced by 2, and then both timers tick, floored at 0; or, if `exec i` raised, nothing of
that but the latch (R262). -/
def Obligations.CycleRunsTheDecodedInstruction : Prop :=
  ∀ (s t : State) (i : Instr),
    s.fault = none → s.pc.toNat ≤ 0xFFE →
    decode [s.mem.read s.pc.toNat, s.mem.read (s.pc.toNat + 1)] = .instr i [] →
    exec i { s with opcode := wordOfBytes (s.mem.read s.pc.toNat) (s.mem.read (s.pc.toNat + 1)), pc := s.pc + 2 } =
      .next t →
    (t.fault = none →
      ∃ u, step s = .next u ∧ u = { t with dt := u.dt, st := u.st } ∧ u.dt.toNat = t.dt.toNat - 1 ∧
        u.st.toNat = t.st.toNat - 1) ∧
    (t.fault ≠ none → step s = .next { s with fault := t.fault })

/-- R125: the complete effect of a cycle whose word is unknown, the event among it. That the event stands for the
source's "logged" is the spec's decision D22. -/
def Obligations.UnknownOpcodeIsATwoByteNoOp : Prop :=
  ∀ s : State,
    s.fault = none → s.pc.toNat ≤ 0xFFE → decodeWord s.fetchWord = none →
    s.unknownOpcode = some ⟨s.fetchWord, s.pc⟩ ∧
    ∃ t, step s = .next t ∧ t = { s with opcode := s.fetchWord, pc := t.pc, dt := t.dt, st := t.st } ∧
      t.pc.toNat = s.pc.toNat + 2 ∧ t.dt.toNat = s.dt.toNat - 1 ∧ t.st.toNat = s.st.toNat - 1

/-- R121: the fetch outside memory faults and nothing else happens; otherwise the word of the two bytes is latched by
every cycle that completes. Faulting, and not wrapping, is the spec's decision D5. -/
def Obligations.FetchIsBoundsChecked : Prop :=
  ∀ s : State, s.fault = none →
    (0xFFE < s.pc.toNat → step s = .next { s with fault := some ⟨.fetchOob, s.pc.toNat, s.pc⟩ }) ∧
    (s.pc.toNat ≤ 0xFFE → ∃ t, step s = .next t ∧ (∀ r, t.fault = some r → r.cause ≠ .fetchOob) ∧
      (t.fault = none →
        t.opcode.toNat = (s.mem.read s.pc.toNat).toNat * 256 + (s.mem.read (s.pc.toNat + 1)).toNat))

/-- R129: a faulted core does nothing, for any number of cycles, and only reset clears the latch. The latch is the
spec's decision D6. -/
def Obligations.FaultedCoreDoesNothing : Prop :=
  ∀ s : State, s.fault ≠ none →
    s.unknownOpcode = none ∧ (∀ k, Host.Core.run Sys2Proof.core k s = .next s) ∧
    ∀ (m : Move) (p : Phase) (h : Session), applyMove m ⟨s, p⟩ = .next h →
      (m = .reset → h.core.fault = none) ∧ (m ≠ .reset → h.core.fault = s.fault)

/-- R262: a cycle that raises keeps every component but the latch, which records the instruction's address, and signals
no event. That nothing is committed is the spec's decision D6. -/
def Obligations.FaultingCycleCommitsNothing : Prop :=
  ∀ (s t : State) (r : FaultRecord), s.fault = none → step s = .next t → t.fault = some r →
    t = { s with fault := some r } ∧ r.atPc = s.pc ∧ s.unknownOpcode = none

/-- R261: a cycle faults exactly under the conditions of the table, with the cause and values of the table; and the
numeric codes of the causes. The conditions and codes rest on the spec's decisions D4, D5, D7 and D8. -/
def Obligations.CycleFaultsExactlyByTheTable : Prop :=
  [Fault.fetchOob, .memOob, .stackOverflow, .stackUnderflow, .keyIndexOob].map Fault.code = [1, 2, 3, 4, 5] ∧
  ∀ s : State, s.fault = none → ∃ t, step s = .next t ∧ t.fault = s.faultOfCycle

/-- Every instruction on every state, and every cycle, answers a next state. A fault is one: the latch is set and the core
does nothing more (R128, R129). That a fault is a next state and no stop of the step is the model's choice (log 4). -/
def Obligations.EveryCycleAnswersANextState : Prop :=
  (∀ (i : Instr) (s : State), ∃ t, exec i s = .next t) ∧ ∀ s : State, ∃ t, step s = .next t

/-- R126: in every cycle that does not fault each timer goes down by one, floored at 0, from the value the instruction
left: `V[x]` after `Fx15` (`DT`) or `Fx18` (`ST`), the value before otherwise. In a cycle that faults, or of a core that
is faulted, neither moves. Which cycles tick is the spec's decision D20, and that a faulting one does not, D6. -/
def Obligations.TimersTickOncePerCompletedCycle : Prop :=
  ∀ s t : State, step s = .next t →
    (t.fault = none →
      t.dt.toNat = (match decodeWord s.fetchWord with | some (.ldDtVx x) => s.readV x | _ => s.dt).toNat - 1 ∧
      t.st.toNat = (match decodeWord s.fetchWord with | some (.ldStVx x) => s.readV x | _ => s.st).toNat - 1) ∧
    (t.fault ≠ none → t.dt = s.dt ∧ t.st = s.st)

/-- R127, first three consequences: a timer just set, `DT` by `Fx15` or `ST` by `Fx18`, is one lower at the end of its own
cycle, and `Fx07` in the cycle after `Fx15` reads the value that cycle left. The tick is the spec's decision D20. -/
def Obligations.FreshTimerIsTickedInItsOwnCycle : Prop :=
  ∀ (s t u : State) (x y : Reg), s.fault = none → step s = .next t → t.fault = none →
    (decodeWord s.fetchWord = some (.ldStVx x) → t.st.toNat = (s.readV x).toNat - 1) ∧
    (decodeWord s.fetchWord = some (.ldDtVx x) →
      t.dt.toNat = (s.readV x).toNat - 1 ∧
      (decodeWord t.fetchWord = some (.ldVxDt y) → step t = .next u → u.fault = none →
        (u.readV y).toNat = (s.readV x).toNat - 1 ∧ u.dt.toNat = (s.readV x).toNat - 2))

/-- The table of R24: where `pc` stands at the end of a cycle that does not fault. -/
def Obligations.PcAtTheEndOfACycle : Prop :=
  ∀ s t : State, s.fault = none → step s = .next t → t.fault = none →
    t.pc.toNat = match decodeWord s.fetchWord with
      | some i => instrPcAfter i s
      | none => s.pc.toNat + 2

/-- The table of R38 with the flag writers of R22: an instruction changes nothing but what it is listed for, or, on the
conditions of R261, nothing but the latch. Registers, call-stack entries and bytes of memory are kept one by one. -/
def Obligations.OnlyTheListedWritersWrite : Prop :=
  ∀ (i : Instr) (s : State), ∃ t, exec i s = .next t ∧
    match instrFault i { s with pc := s.pc - 2 } with
    | some (cause, info) => Raised cause info (s.pc - 2) s t
    | none => Unchanged (instrWriters i s) s t

/-- R31, R243: a cycle never writes the keypad; only the host's key write does, and it writes nothing else. -/
def Obligations.KeypadIsWrittenByTheHostOnly : Prop :=
  (∀ s t : State, step s = .next t → t.key = s.key) ∧
  ∀ (k : Vector Bool 16) (h : Session), ∃ h', applyMove (.writeKey k) h = .next h' ∧ h'.core = { h.core with key := k } ∧
    h'.phase = h.phase

/-- R36 for `ST` and `opcode`: a program cannot read them. Two cores that differ in nothing else, with the same bytes on
the random port, still differ in nothing else after a cycle. That the bytes are the same is part of the two states: they
have the same draw counter and RND_SET, which is the model's choice (log 2). -/
def Obligations.SoundTimerAndOpcodeAreNotObservable : Prop :=
  ∀ (s t : State) (st' : Byte) (op' : Word), step s = .next t →
    ∃ t', step { s with st := st', opcode := op' } = .next t' ∧ t' = { t with st := t'.st, opcode := t'.opcode }

/-- A safe run has only safe prefixes: a cycle never clears the latch (R129, R263). -/
def Obligations.SafeRunsHaveSafePrefixes : Prop :=
  ∀ (j k : Nat) (s : State), safeRun (j + k) s → safeRun j s

/-! ### Families 0x0 to 0x2 and 0xB: display clear, return, jumps, call -/

/-- R140. -/
def Obligations.ClearDisplay : Prop :=
  decodeWord 0x00E0 = some .cls ∧
  ∀ s : State, ∃ t, exec .cls s = .next t ∧ (∀ r c, pixel t.disp r c = false) ∧ Unchanged { disp := True } s t

/-- R141: with an empty stack the return raises, else it takes `pc` from the entry `sp` then names, which keeps its
value. The fault is the spec's decision D4. -/
def Obligations.ReturnPopsOrUnderflows : Prop :=
  decodeWord 0x00EE = some .ret ∧
  ∀ s : State,
    (s.sp.val = 0 → ∃ t, exec .ret s = .next t ∧ Raised .stackUnderflow (s.pc - 2).toNat (s.pc - 2) s t) ∧
    ∀ j : Fin 16, s.sp.val = j.val + 1 →
      ∃ t, exec .ret s = .next t ∧ t.sp.val = j.val ∧ t.pc = s.stack[j] ∧ Unchanged { sp := True, pc := True } s t

/-- R142. -/
def Obligations.JumpSetsPc : Prop :=
  ∀ (nnn : Addr12) (s : State), decodeWord (wordA 0x1 nnn) = some (.jp nnn) ∧
    ∃ t, exec (.jp nnn) s = .next t ∧ t.pc.toNat = nnn.toNat ∧ Unchanged { pc := True } s t

/-- R143: with a full stack the call raises, else it pushes the advanced `pc` at `sp` and jumps. The fault is the spec's
decision D4. -/
def Obligations.CallPushesOrOverflows : Prop :=
  ∀ (nnn : Addr12) (s : State), decodeWord (wordA 0x2 nnn) = some (.call nnn) ∧
    (s.sp.val = 16 → ∃ t, exec (.call nnn) s = .next t ∧ Raised .stackOverflow (s.pc - 2).toNat (s.pc - 2) s t) ∧
    ∀ j : Fin 16, s.sp.val = j.val →
      ∃ t, exec (.call nnn) s = .next t ∧ t.stack[j] = s.pc ∧ t.sp.val = j.val + 1 ∧ t.pc.toNat = nnn.toNat ∧
        Unchanged { stack := fun k => k = j, sp := True, pc := True } s t

/-- R182: `V[0]` and never another register; the sum is not reduced. That it is not reduced is the spec's decision D15.
-/
def Obligations.JumpWithOffsetAddsV0 : Prop :=
  ∀ (nnn : Addr12) (s : State), decodeWord (wordA 0xB nnn) = some (.jpV0 nnn) ∧
    ∃ t, exec (.jpV0 nnn) s = .next t ∧ t.pc.toNat = (s.readV 0).toNat + nnn.toNat ∧ Unchanged { pc := True } s t

/-- A call and then a return, with anything between them that leaves the call stack as the call left it, comes back to
the word after the call (spec/95_test_vectors.md S7). -/
def Obligations.ReturnUndoesCall : Prop :=
  ∀ (nnn : Addr12) (s : State), s.sp.val < 16 →
    ∃ t, exec (.call nnn) s = .next t ∧
      ∀ u : State, u.sp = t.sp → u.stack = t.stack →
        ∃ w, exec .ret u = .next w ∧ w.pc = s.pc ∧ w.sp = s.sp

/-! ### Skips -/

/-- R150 and R151: a skip adds 2 to the advanced `pc`. -/
def Obligations.SkipsOnAnImmediate : Prop :=
  ∀ (x : Reg) (kk : Byte) (s : State),
    decodeWord (wordXK 0x3 x kk) = some (.seVxKk x kk) ∧ decodeWord (wordXK 0x4 x kk) = some (.sneVxKk x kk) ∧
    (∃ t, exec (.seVxKk x kk) s = .next t ∧
      t.pc = (if (s.readV x).toNat = kk.toNat then s.pc + 2 else s.pc) ∧ Unchanged { pc := True } s t) ∧
    (∃ t, exec (.sneVxKk x kk) s = .next t ∧
      t.pc = (if (s.readV x).toNat = kk.toNat then s.pc else s.pc + 2) ∧ Unchanged { pc := True } s t)

/-- R152 and R180: bits 3..0 of the word select nothing and change nothing. That is the spec's decision D10. -/
def Obligations.SkipsOnTwoRegisters : Prop :=
  ∀ (x y : Reg) (z : Nibble) (s : State),
    decodeWord (wordXYN 0x5 x (regBits y) z) = some (.seVxVy x y z) ∧
    decodeWord (wordXYN 0x9 x (regBits y) z) = some (.sneVxVy x y z) ∧
    (∃ t, exec (.seVxVy x y z) s = .next t ∧
      t.pc = (if (s.readV x).toNat = (s.readV y).toNat then s.pc + 2 else s.pc) ∧ Unchanged { pc := True } s t) ∧
    (∃ t, exec (.sneVxVy x y z) s = .next t ∧
      t.pc = (if (s.readV x).toNat = (s.readV y).toNat then s.pc else s.pc + 2) ∧ Unchanged { pc := True } s t)

/-- R200 and R201: the key that `V[x]` numbers, or a fault when there is none; the number is not masked. The fault is
the spec's decision D8. -/
def Obligations.SkipsOnAKey : Prop :=
  ∀ (x : Reg) (s : State),
    decodeWord (wordXK 0xE x 0x9E) = some (.skp x) ∧ decodeWord (wordXK 0xE x 0xA1) = some (.sknp x) ∧
    (15 < (s.readV x).toNat →
      (∃ t, exec (.skp x) s = .next t ∧ Raised .keyIndexOob (s.readV x).toNat (s.pc - 2) s t) ∧
      (∃ t, exec (.sknp x) s = .next t ∧ Raised .keyIndexOob (s.readV x).toNat (s.pc - 2) s t)) ∧
    ∀ k : Fin 16, (s.readV x).toNat = k.val →
      (∃ t, exec (.skp x) s = .next t ∧ t.pc = (if s.key[k] then s.pc + 2 else s.pc) ∧
        Unchanged { pc := True } s t) ∧
      (∃ t, exec (.sknp x) s = .next t ∧ t.pc = (if s.key[k] then s.pc else s.pc + 2) ∧
        Unchanged { pc := True } s t)

/-! ### Families 0x6 to 0x8: loads, logic, arithmetic, shifts -/

/-- R153. -/
def Obligations.LoadImmediate : Prop :=
  ∀ (x : Reg) (kk : Byte) (s : State), decodeWord (wordXK 0x6 x kk) = some (.ldVxKk x kk) ∧
    ∃ t, exec (.ldVxKk x kk) s = .next t ∧ t.readV x = kk ∧ Unchanged { regs := fun r => r = x } s t

/-- R154: the sum wraps, and VF is written only when it is the destination (D2). -/
def Obligations.AddImmediateWithoutFlag : Prop :=
  ∀ (x : Reg) (kk : Byte) (s : State), decodeWord (wordXK 0x7 x kk) = some (.addVxKk x kk) ∧
    ∃ t, exec (.addVxKk x kk) s = .next t ∧ (t.readV x).toNat = ((s.readV x).toNat + kk.toNat) % 256 ∧
      Unchanged { regs := fun r => r = x } s t

/-- R160. -/
def Obligations.RegisterMove : Prop :=
  ∀ (x y : Reg) (s : State), decodeWord (wordXYN 0x8 x (regBits y) 0x0) = some (.ldVxVy x y) ∧
    ∃ t, exec (.ldVxVy x y) s = .next t ∧ t.readV x = s.readV y ∧ Unchanged { regs := fun r => r = x } s t

/-- R161 to R163, bit by bit; VF is written only when it is the destination. -/
def Obligations.BitwiseLogic : Prop :=
  ∀ (x y : Reg) (s : State),
    decodeWord (wordXYN 0x8 x (regBits y) 0x1) = some (.or x y) ∧
    decodeWord (wordXYN 0x8 x (regBits y) 0x2) = some (.and x y) ∧
    decodeWord (wordXYN 0x8 x (regBits y) 0x3) = some (.xor x y) ∧
    (∃ t, exec (.or x y) s = .next t ∧ Unchanged { regs := fun r => r = x } s t ∧
      ∀ b : Fin 8, (t.readV x)[b] = ((s.readV x)[b] || (s.readV y)[b])) ∧
    (∃ t, exec (.and x y) s = .next t ∧ Unchanged { regs := fun r => r = x } s t ∧
      ∀ b : Fin 8, (t.readV x)[b] = ((s.readV x)[b] && (s.readV y)[b])) ∧
    (∃ t, exec (.xor x y) s = .next t ∧ Unchanged { regs := fun r => r = x } s t ∧
      ∀ b : Fin 8, (t.readV x)[b] = ((s.readV x)[b] != (s.readV y)[b]))

/-- R164: the result, and then the carry, which wins when `x` is VF. The order, where it shows, is the spec's decision
D11. -/
def Obligations.AddWithCarry : Prop :=
  ∀ (x y : Reg) (s : State), decodeWord (wordXYN 0x8 x (regBits y) 0x4) = some (.addVxVy x y) ∧
    ∃ t, exec (.addVxVy x y) s = .next t ∧
      (x ≠ VF → (t.readV x).toNat = ((s.readV x).toNat + (s.readV y).toNat) % 256) ∧
      (t.readV VF).toNat = (if (s.readV x).toNat + (s.readV y).toNat > 255 then 1 else 0) ∧
      Unchanged { regs := fun r => r = x ∨ r = VF } s t

/-- R165: the flag `f`, and then the difference of the operands as the flag write left them: `f` stands for the operand
that is VF. The order, where it shows, is the spec's decision D11. -/
def Obligations.SubtractFlagFirst : Prop :=
  ∀ (x y : Reg) (s : State), decodeWord (wordXYN 0x8 x (regBits y) 0x5) = some (.sub x y) ∧
    ∃ t, exec (.sub x y) s = .next t ∧
      (let f := if (s.readV x).toNat > (s.readV y).toNat then 1 else 0
       let a := if x = VF then f else (s.readV x).toNat
       let b := if y = VF then f else (s.readV y).toNat
       (t.readV x).toNat = (256 + a - b) % 256 ∧ (x ≠ VF → (t.readV VF).toNat = f)) ∧
      Unchanged { regs := fun r => r = x ∨ r = VF } s t

/-- R167: as R165 with the operands exchanged. The order, where it shows, is the spec's decision D11. -/
def Obligations.ReverseSubtractFlagFirst : Prop :=
  ∀ (x y : Reg) (s : State), decodeWord (wordXYN 0x8 x (regBits y) 0x7) = some (.subn x y) ∧
    ∃ t, exec (.subn x y) s = .next t ∧
      (let f := if (s.readV y).toNat > (s.readV x).toNat then 1 else 0
       let a := if x = VF then f else (s.readV x).toNat
       let b := if y = VF then f else (s.readV y).toNat
       (t.readV x).toNat = (256 + b - a) % 256 ∧ (x ≠ VF → (t.readV VF).toNat = f)) ∧
      Unchanged { regs := fun r => r = x ∨ r = VF } s t

/-- R166: the bit shifted out, and then the half of `V[x]` as the flag write left it; bits 7..4 of the word change
nothing. The order, where it shows, is the spec's decision D11. -/
def Obligations.ShiftRightFlagFirst : Prop :=
  ∀ (x : Reg) (z : Nibble) (s : State), decodeWord (wordXYN 0x8 x z 0x6) = some (.shr x z) ∧
    ∃ t, exec (.shr x z) s = .next t ∧
      (let f := (s.readV x).toNat % 2
       (t.readV x).toNat = (if x = VF then f else (s.readV x).toNat) / 2 ∧ (x ≠ VF → (t.readV VF).toNat = f)) ∧
      Unchanged { regs := fun r => r = x ∨ r = VF } s t

/-- R168: the bit shifted out, and then the double of `V[x]` as the flag write left it; bits 7..4 of the word change
nothing. The order, where it shows, is the spec's decision D11. -/
def Obligations.ShiftLeftFlagFirst : Prop :=
  ∀ (x : Reg) (z : Nibble) (s : State), decodeWord (wordXYN 0x8 x z 0xE) = some (.shl x z) ∧
    ∃ t, exec (.shl x z) s = .next t ∧
      (let f := (s.readV x).toNat / 128
       (t.readV x).toNat = (if x = VF then f else (s.readV x).toNat) * 2 % 256 ∧
       (x ≠ VF → (t.readV VF).toNat = f)) ∧
      Unchanged { regs := fun r => r = x ∨ r = VF } s t

/-! ### The index register and the random byte -/

/-- R181. -/
def Obligations.LoadIndex : Prop :=
  ∀ (nnn : Addr12) (s : State), decodeWord (wordA 0xA nnn) = some (.ldINnn nnn) ∧
    ∃ t, exec (.ldINnn nnn) s = .next t ∧ t.i.toNat = nnn.toNat ∧ Unchanged { i := True } s t

/-- R214: wraps at 16 bits and writes no flag. The wrap at the top is the spec's decision D15. -/
def Obligations.AddToIndexWraps : Prop :=
  ∀ (x : Reg) (s : State), decodeWord (wordXK 0xF x 0x1E) = some (.addIVx x) ∧
    ∃ t, exec (.addIVx x) s = .next t ∧ t.i.toNat = (s.i.toNat + (s.readV x).toNat) % 65536 ∧
      Unchanged { i := True } s t

/-- R215: all eight bits of `V[x]` are used. That it is not masked is the spec's decision D15. -/
def Obligations.GlyphAddress : Prop :=
  ∀ (x : Reg) (s : State), decodeWord (wordXK 0xF x 0x29) = some (.ldFVx x) ∧
    ∃ t, exec (.ldFVx x) s = .next t ∧ t.i.toNat = 0x50 + 5 * (s.readV x).toNat ∧ Unchanged { i := True } s t

/-- R183, with the byte on the port a FREE VALUE within RND_SET (R6): `Config.rnd` of the draw counter has no body, so this
holds whatever the byte is, and any byte that RND_SET admits may be presented. That the bytes are numbered by a counter in
the state is the model's choice (log 2), and that RND_SET stands in the state too (log 15). -/
def Obligations.RandomByteIsMasked : Prop :=
  ∀ (x : Reg) (kk : Byte) (s : State), decodeWord (wordXK 0xC x kk) = some (.rnd x kk) ∧
    s.params.rndSet.admits s.randomByte = true ∧
    (s.params.rndSet.admits (Config.rnd s.draws) = true → s.randomByte = Config.rnd s.draws) ∧
    ∃ t, exec (.rnd x kk) s = .next t ∧ t.readV x = kk &&& s.randomByte ∧
      (∀ b : Fin 8, kk[b] = false → (t.readV x)[b] = false) ∧ t.draws = s.draws + 1 ∧
      Unchanged { regs := fun r => r = x, draws := True } s t

/-! ### Drawing -/

/-- R190 and R192: unless a row's address is outside memory, in which case the lowest such address is reported and
nothing is drawn, the final display inverts exactly the pixels whose sprite bit is set, and VF is 1 exactly when one of
them was on. The coordinates are the registers before VF is written, for `x` or `y` VF too. Which bit is the leftmost
pixel is the spec's general knowledge (log 7), and `n = 0` and VF as a coordinate its decision D12. -/
def Obligations.DrawInvertsTheSpritePixels : Prop :=
  ∀ (x y : Reg) (n : Nat) (s : State), n < 16 →
    decodeWord (wordXYN 0xD x (regBits y) (BitVec.ofNat 4 n)) = some (.drw x y n) ∧
    (1 ≤ n ∧ 4095 < s.i.toNat + n - 1 →
      ∃ t, exec (.drw x y n) s = .next t ∧ Raised .memOob (max s.i.toNat 4096) (s.pc - 2) s t) ∧
    (n = 0 ∨ s.i.toNat + n - 1 ≤ 4095 →
      ∃ t, exec (.drw x y n) s = .next t ∧
        (∀ r c, pixel t.disp r c ≠ pixel s.disp r c ↔
          s.spriteSets n ((s.readV x).toNat % 64) ((s.readV y).toNat % 32) r c) ∧
        ((t.readV VF).toNat = 1 ↔ ∃ r c,
          s.spriteSets n ((s.readV x).toNat % 64) ((s.readV y).toNat % 32) r c ∧ pixel s.disp r c = true) ∧
        (t.readV VF).toNat ≤ 1 ∧ Unchanged { regs := fun r => r = VF, disp := True } s t)

/-- Drawing the same sprite twice at the same place restores the display, and reports a collision the second time when
the first draw turned a pixel on (spec/90_conflicts.md C10, spec/95_test_vectors.md S4). -/
def Obligations.DrawingTwiceRestoresTheDisplay : Prop :=
  ∀ (x y : Reg) (n : Nat) (s : State), n < 16 → x ≠ VF → y ≠ VF → s.i.toNat + n ≤ 4096 →
    ∃ t u, exec (.drw x y n) s = .next t ∧ exec (.drw x y n) t = .next u ∧ u.disp = s.disp ∧
      ((∃ r c, pixel s.disp r c = false ∧ pixel t.disp r c = true) → (u.readV VF).toNat = 1)

/-! ### Timers and the key wait -/

/-- R210, R212 and R213, before the tick of the same cycle. -/
def Obligations.TimerReadsAndWrites : Prop :=
  ∀ (x : Reg) (s : State),
    decodeWord (wordXK 0xF x 0x07) = some (.ldVxDt x) ∧ decodeWord (wordXK 0xF x 0x15) = some (.ldDtVx x) ∧
    decodeWord (wordXK 0xF x 0x18) = some (.ldStVx x) ∧
    (∃ t, exec (.ldVxDt x) s = .next t ∧ t.readV x = s.dt ∧ Unchanged { regs := fun r => r = x } s t) ∧
    (∃ t, exec (.ldDtVx x) s = .next t ∧ t.dt = s.readV x ∧ Unchanged { dt := True } s t) ∧
    (∃ t, exec (.ldStVx x) s = .next t ∧ t.st = s.readV x ∧ Unchanged { st := True } s t)

/-- R211: the least key that is down, or `pc` back to this instruction. That the least one is taken is the spec's
decision D9. -/
def Obligations.KeyWait : Prop :=
  ∀ (x : Reg) (s : State), decodeWord (wordXK 0xF x 0x0A) = some (.ldVxK x) ∧
    (∀ k : Fin 16, s.key[k] = true → (∀ j : Fin 16, j < k → s.key[j] = false) →
      ∃ t, exec (.ldVxK x) s = .next t ∧ (t.readV x).toNat = k.val ∧ Unchanged { regs := fun r => r = x } s t) ∧
    ((∀ k : Fin 16, s.key[k] = false) →
      ∃ t, exec (.ldVxK x) s = .next t ∧ t.pc = s.pc - 2 ∧ Unchanged { pc := True } s t)

/-! ### Memory -/

/-- R216: three digits, hundreds at `I`; or a fault and no byte written. That a fault writes nothing is the spec's
decision D6. -/
def Obligations.DecimalDigitsAreStored : Prop :=
  ∀ (x : Reg) (s : State), decodeWord (wordXK 0xF x 0x33) = some (.ldBVx x) ∧
    (4095 < s.base + 2 →
      ∃ t, exec (.ldBVx x) s = .next t ∧ Raised .memOob (max s.base 4096) (s.pc - 2) s t) ∧
    (s.base + 2 ≤ 4095 →
      ∃ t, exec (.ldBVx x) s = .next t ∧
        (t.mem.read s.base).toNat = (s.readV x).toNat / 100 ∧
        (t.mem.read (s.base + 1)).toNat = (s.readV x).toNat / 10 % 10 ∧
        (t.mem.read (s.base + 2)).toNat = (s.readV x).toNat % 10 ∧
        Unchanged { mem := fun a => s.base ≤ a ∧ a < s.base + 3 } s t)

/-- R217: `V[0]`..`V[x-1]`, exclusive of `V[x]`; or a fault and no byte written. With `x = 0` nothing is stored and no
fault is possible. The boundary is the spec's decision D3, and that a fault writes nothing D6. -/
def Obligations.RegistersAreStored : Prop :=
  ∀ (x : Reg) (s : State), decodeWord (wordXK 0xF x 0x55) = some (.ldMemVx x) ∧
    (1 ≤ x.val ∧ 4095 < s.base + x.val - 1 →
      ∃ t, exec (.ldMemVx x) s = .next t ∧ Raised .memOob (max s.base 4096) (s.pc - 2) s t) ∧
    (x.val = 0 ∨ s.base + x.val - 1 ≤ 4095 →
      ∃ t, exec (.ldMemVx x) s = .next t ∧ (∀ r : Reg, r < x → t.mem.read (s.base + r.val) = s.readV r) ∧
        Unchanged { mem := fun a => s.base ≤ a ∧ a < s.base + x.val } s t)

/-- R218: `V[0]`..`V[x-1]`, exclusive of `V[x]`; or a fault and no register written. The boundary is the spec's decision
D3, and that a fault writes nothing D6. -/
def Obligations.RegistersAreLoaded : Prop :=
  ∀ (x : Reg) (s : State), decodeWord (wordXK 0xF x 0x65) = some (.ldVxMem x) ∧
    (1 ≤ x.val ∧ 4095 < s.base + x.val - 1 →
      ∃ t, exec (.ldVxMem x) s = .next t ∧ Raised .memOob (max s.base 4096) (s.pc - 2) s t) ∧
    (x.val = 0 ∨ s.base + x.val - 1 ≤ 4095 →
      ∃ t, exec (.ldVxMem x) s = .next t ∧ (∀ r : Reg, r < x → t.readV r = s.mem.read (s.base + r.val)) ∧
        Unchanged { regs := fun r => r < x } s t)

/-- A block load undoes a block store with the same `x` and `I`, whatever the registers and everything else have become
in between, if memory is as the store left it (R218, spec/95_test_vectors.md S3). -/
def Obligations.BlockLoadUndoesBlockStore : Prop :=
  ∀ (x : Reg) (s : State), s.base + x.val ≤ 4096 →
    ∃ t, exec (.ldMemVx x) s = .next t ∧
      ∀ u : State, u.mem = t.mem → u.i = s.i →
        ∃ w, exec (.ldVxMem x) u = .next w ∧ ∀ r : Reg, r < x → w.readV r = s.readV r

/-- A store is seen by the very next fetch (R73): after a cycle that runs a block store or a decimal store, the word that
the next cycle fetches has the bytes the store wrote, wherever they fall on it, and the old bytes elsewhere. With `I` at
that word it is `V[0]`, `V[1]`, or hundreds, tens. That nothing is buffered is the spec's decision D17. -/
def Obligations.StoreIsSeenByTheNextFetch : Prop :=
  ∀ (s : State) (x : Reg), s.fault = none → s.pc.toNat ≤ 0xFFC →
    (decodeWord s.fetchWord = some (.ldMemVx x) → x.val = 0 ∨ s.base + x.val - 1 ≤ 4095 →
      let after (a : Nat) : Byte :=
        if s.base ≤ a ∧ a < s.base + x.val then s.v.toList.getD (a - s.base) 0 else s.mem.read a
      ∃ t, step s = .next t ∧ t.fault = none ∧ t.pc = s.pc + 2 ∧
        t.fetchWord = wordOfBytes (after (s.pc.toNat + 2)) (after (s.pc.toNat + 3)) ∧
        (s.base = s.pc.toNat + 2 → 2 ≤ x.val → t.fetchWord = wordOfBytes (s.readV 0) (s.readV 1))) ∧
    (decodeWord s.fetchWord = some (.ldBVx x) → s.base + 2 ≤ 4095 →
      let digit (k : Nat) : Nat := (s.readV x).toNat / 10 ^ (2 - k) % 10
      let after (a : Nat) : Byte :=
        if s.base ≤ a ∧ a < s.base + 3 then BitVec.ofNat 8 (digit (a - s.base)) else s.mem.read a
      ∃ t, step s = .next t ∧ t.fault = none ∧ t.pc = s.pc + 2 ∧
        t.fetchWord = wordOfBytes (after (s.pc.toNat + 2)) (after (s.pc.toNat + 3)) ∧
        (s.base = s.pc.toNat + 2 →
          t.fetchWord.toNat = (s.readV x).toNat / 100 * 256 + (s.readV x).toNat / 10 % 10))

/-! ### The host's moves -/

/-- R233: a load right after reset copies the image to 0x200 and changes nothing else. -/
def Obligations.LoadCopiesTheImage : Prop :=
  ∀ (image : List Byte) (s : State), image.length ≤ 3584 →
    ∃ h, applyMove (.load image) ⟨s, .fresh⟩ = .next h ∧
      (∀ k < image.length, h.core.mem.read (0x200 + k) = image.getD k 0) ∧
      Unchanged { mem := fun a => 0x200 ≤ a ∧ a < 0x200 + image.length } s h.core

/-- R234 and R235: too long an image is refused, and so is every load but one before the first cycle, whatever key writes
come in between: after a load is accepted, or a cycle has run, every load is refused until the next reset. The refusal
leaves no state. Refusing is the spec's decision D19. That the host's progress is a phase beside the state is the model's
(log 8). -/
def Obligations.LoadOutOfTurnIsRefused : Prop :=
  (∀ (image : List Byte) (s : State),
    3584 < image.length → applyMove (.load image) ⟨s, .fresh⟩ = .refused .loadTooLong) ∧
  (∀ (image : List Byte) (h : Session), h.phase = .loaded ∨ h.phase = .running →
    applyMove (.load image) h = .refused .loadOutOfTurn) ∧
  ∀ (m : Move) (h h' : Session), applyMove m h = .next h' →
    h'.phase = match m with
      | .reset => .fresh
      | .load _ => .loaded
      | .writeKey _ => h.phase
      | .cycle => .running

/-- R232, R301: reset puts every piece of the spec's state at its reset value, whatever it was, a set latch and a loaded
program included. The parameters stay (log 15), and the model's own draw counter goes on (log 3). A reset at any time is
the spec's decision D18. -/
def Obligations.ResetFromAnyState : Prop :=
  ∀ h : Session, ∃ h', applyMove .reset h = .next h' ∧
    h'.core = { State.resetWith h.core.params with draws := h.core.draws } ∧ h'.phase = .fresh

/-- R239: pixel `(r, c)` stands at index `r * 64 + c` of the row-major read-out of 2048 pixels. The flat order is the
spec's decision D26. -/
def Obligations.DisplayReadsOutRowByRow : Prop :=
  ∀ s : State, s.pixelList.length = 2048 ∧
    ∀ (r : Fin 32) (c : Fin 64), s.pixelList[r.val * 64 + c.val]? = some (pixel s.disp r c)

/-- FONT and RND_SET are arguments of the model (R6): no move of the host and no cycle changes them, so one choice holds
for a whole run. That they stand in the state is the model's choice (log 15). -/
def Obligations.ParametersNeverChange : Prop :=
  ∀ (m : Move) (h h' : Session), applyMove m h = .next h' → h'.core.params = h.core.params
end

