-- ==== Sys2Proof/Laws/Decode.lean ====
section
/-! SUPPORT. The fields of a word laid out in a format of 30_encoding.md R93 are what was put into them. -/

namespace Sys2Proof

@[simp] theorem regBits_toFin (x : Reg) : (regBits x).toFin = x := rfl

@[simp] theorem fieldFam_wordA (f : Nibble) (nnn : Addr12) : fieldFam (wordA f nnn) = f := by
  rw [fieldFam, wordA, BitVec.extractLsb'_append_eq_of_le (by decide)]; simp

@[simp] theorem fieldNNN_wordA (f : Nibble) (nnn : Addr12) : fieldNNN (wordA f nnn) = nnn := by
  rw [fieldNNN, wordA, BitVec.extractLsb'_append_eq_of_add_le (by decide)]; simp

@[simp] theorem fieldFam_wordXK (f : Nibble) (x : Reg) (kk : Byte) : fieldFam (wordXK f x kk) = f := by
  rw [fieldFam, wordXK, BitVec.extractLsb'_append_eq_of_le (by decide)]; simp

@[simp] theorem fieldX_wordXK (f : Nibble) (x : Reg) (kk : Byte) : fieldX (wordXK f x kk) = x := by
  rw [fieldX, wordXK, BitVec.extractLsb'_append_eq_of_add_le (by decide),
    BitVec.extractLsb'_append_eq_of_le (by decide)]
  simp

@[simp] theorem fieldKK_wordXK (f : Nibble) (x : Reg) (kk : Byte) : fieldKK (wordXK f x kk) = kk := by
  rw [fieldKK, wordXK, BitVec.extractLsb'_append_eq_of_add_le (by decide),
    BitVec.extractLsb'_append_eq_of_add_le (by decide)]
  simp

@[simp] theorem fieldFam_wordXYN (f : Nibble) (x : Reg) (y n : Nibble) : fieldFam (wordXYN f x y n) = f := by
  rw [fieldFam, wordXYN, BitVec.extractLsb'_append_eq_of_le (by decide)]; simp

@[simp] theorem fieldX_wordXYN (f : Nibble) (x : Reg) (y n : Nibble) : fieldX (wordXYN f x y n) = x := by
  rw [fieldX, wordXYN, BitVec.extractLsb'_append_eq_of_add_le (by decide),
    BitVec.extractLsb'_append_eq_of_le (by decide)]
  simp

@[simp] theorem fieldYBits_wordXYN (f : Nibble) (x : Reg) (y n : Nibble) : fieldYBits (wordXYN f x y n) = y := by
  rw [fieldYBits, wordXYN, BitVec.extractLsb'_append_eq_of_add_le (by decide),
    BitVec.extractLsb'_append_eq_of_add_le (by decide), BitVec.extractLsb'_append_eq_of_le (by decide)]
  simp

theorem fieldY_eq (w : Word) : fieldY w = (fieldYBits w).toFin := rfl

@[simp] theorem fieldY_wordXYN (f : Nibble) (x : Reg) (y n : Nibble) : fieldY (wordXYN f x y n) = y.toFin := by
  rw [fieldY_eq, fieldYBits_wordXYN]

@[simp] theorem fieldN_wordXYN (f : Nibble) (x : Reg) (y n : Nibble) : fieldN (wordXYN f x y n) = n := by
  rw [fieldN, wordXYN, BitVec.extractLsb'_append_eq_of_add_le (by decide),
    BitVec.extractLsb'_append_eq_of_add_le (by decide), BitVec.extractLsb'_append_eq_of_add_le (by decide)]
  simp

/-- The word of the two bytes of a word is the word (20_memory.md R63). -/
@[simp] theorem wordOfBytes_bytesOfWord (w : Word) : wordOfBytes (w.extractLsb' 8 8) (w.extractLsb' 0 8) = w := by
  apply BitVec.eq_of_toNat_eq
  have h := w.isLt
  simp only [wordOfBytes, BitVec.toNat_append, BitVec.extractLsb'_toNat, Nat.shiftRight_zero]
  rw [← Nat.shiftLeft_add_eq_or_of_lt (by omega), Nat.shiftLeft_eq, Nat.shiftRight_eq_div_pow]
  omega

/-- Decoding the two bytes of a word decodes the word. -/
theorem decode_bytesOfWord (w : Word) (rest : List Byte) :
    decode (bytesOfWord w ++ rest) =
      match decodeWord w with
      | some i => .instr i rest
      | none => .unknownOpcode w rest := by
  cases h : decodeWord w <;> simp [bytesOfWord, decode, h]

theorem wordA_mask (f : Nibble) (nnn : Addr12) : wordA f nnn &&& 0xF000#16 = f ++ 0#12 := by
  have h : (0xF000#16 : Word) = (0xF#4 : Nibble) ++ (0#12 : Addr12) := by decide
  rw [wordA, h, BitVec.and_append]
  congr 1
  · exact BitVec.and_allOnes
  · simp

theorem wordXK_eq (f : Nibble) (x : Reg) (kk : Byte) : wordXK f x kk = wordA f (regBits x ++ kk) := rfl

theorem wordXYN_eq (f : Nibble) (x : Reg) (y n : Nibble) : wordXYN f x y n = wordXK f x (y ++ n) := rfl

theorem wordXK_mask (f : Nibble) (x : Reg) (kk : Byte) : wordXK f x kk &&& 0xF0FF#16 = f ++ (0#4 ++ kk) := by
  have h : (0xF0FF#16 : Word) = (0xF#4 : Nibble) ++ ((0#4 : Nibble) ++ (0xFF#8 : Byte)) := by decide
  rw [wordXK, h, BitVec.and_append, BitVec.and_append]
  congr 1
  · exact BitVec.and_allOnes
  · congr 1
    · simp
    · exact BitVec.and_allOnes

theorem wordXYN_mask (f : Nibble) (x : Reg) (y n : Nibble) :
    wordXYN f x y n &&& 0xF00F#16 = f ++ (0#4 ++ (0#4 ++ n)) := by
  have h : (0xF00F#16 : Word) = (0xF#4 : Nibble) ++ ((0#4 : Nibble) ++ ((0#4 : Nibble) ++ (0xF#4 : Nibble))) := by decide
  rw [wordXYN, h, BitVec.and_append, BitVec.and_append, BitVec.and_append]
  congr 1
  · exact BitVec.and_allOnes
  · congr 1
    · simp
    · congr 1
      · simp
      · exact BitVec.and_allOnes

end Sys2Proof
end

