-- ==== Sys2Proof/Laws/Memory.lean ====
section
/-! SUPPORT. Memory: a read after a write gives the byte written and every other address reads as before, and every
write keeps the canonical form. -/

namespace Sys2Proof.Machine

@[simp] theorem Memory.read_nil (a : Nat) : Memory.read [] a = resetByte a := rfl

theorem Memory.read_insert (a c : Nat) (b : Byte) (m : Memory) :
    Memory.read (Memory.insert a b m) c = if c = a then b else Memory.read m c := by
  induction m with
  | nil => simp [Memory.insert, Memory.read, eq_comm]
  | cons d m ih =>
    obtain ⟨k, e⟩ := d
    simp only [Memory.insert]
    split
    · simp [Memory.read, eq_comm]
    · split
      · subst a
        simp only [Memory.read]
        grind
      · simp only [Memory.read, ih]
        grind

theorem Memory.read_filter_ne (a c : Nat) (m : Memory) :
    Memory.read (m.filter fun d => d.1 ≠ a) c = if c = a then resetByte a else Memory.read m c := by
  induction m with
  | nil => simp +contextual
  | cons d m ih =>
    obtain ⟨k, e⟩ := d
    by_cases h : k = a <;> simp_all [Memory.read] <;> grind

/-- What an address reads as after one byte is written. -/
theorem Memory.read_write (m : Memory) (a c : Nat) (b : Byte) :
    (m.write a b).read c = if c = a then b else m.read c := by
  unfold Memory.write
  split
  · rename_i h
    rw [Memory.read_filter_ne, h]
  · exact Memory.read_insert a c b m

@[simp] theorem Memory.read_write_same (m : Memory) (a : Nat) (b : Byte) : (m.write a b).read a = b := by
  simp [Memory.read_write]

theorem Memory.read_write_other (m : Memory) {a c : Nat} (b : Byte) (h : c ≠ a) :
    (m.write a b).read c = m.read c := by
  simp [Memory.read_write, h]

@[simp] theorem Memory.writeBytes_nil (m : Memory) (a : Nat) : m.writeBytes a [] = m := rfl

/-- What an address reads as after bytes are written from `a` up. -/
theorem Memory.read_writeBytes (bs : List Byte) (m : Memory) (a c : Nat) :
    (m.writeBytes a bs).read c = if a ≤ c ∧ c < a + bs.length then bs.getD (c - a) 0 else m.read c := by
  induction bs generalizing m a with
  | nil => rw [Memory.writeBytes, if_neg (by simp only [List.length_nil]; omega)]
  | cons b bs ih =>
    rw [Memory.writeBytes, ih, Memory.read_write]
    by_cases h : c = a
    · subst c
      simp
    · by_cases h2 : a + 1 ≤ c ∧ c < a + 1 + bs.length
      · have h3 : a ≤ c ∧ c < a + (b :: bs).length := by simp only [List.length_cons]; omega
        have h4 : c - a = (c - (a + 1)) + 1 := by omega
        rw [if_pos h2, if_pos h3, h4, List.getD_cons_succ]
      · have h3 : ¬(a ≤ c ∧ c < a + (b :: bs).length) := by simp only [List.length_cons]; omega
        rw [if_neg h2, if_neg h3, if_neg h]

/-- Outside the bytes written, memory reads as before. -/
theorem Memory.read_writeBytes_outside (bs : List Byte) (m : Memory) {a c : Nat} (h : c < a ∨ a + bs.length ≤ c) :
    (m.writeBytes a bs).read c = m.read c := by
  rw [Memory.read_writeBytes, if_neg (by omega)]

theorem Memory.mem_insert {a : Nat} {b : Byte} {m : Memory} {c : Host.Cell} (h : c ∈ Memory.insert a b m) :
    c = (a, b) ∨ c ∈ m := by
  induction m with
  | nil => simpa [Memory.insert] using h
  | cons d m ih =>
    simp only [Memory.insert] at h
    grind

theorem Memory.insert_pairwise (a : Nat) (b : Byte) {m : Memory}
    (h : List.Pairwise (fun c d : Host.Cell => c.1 < d.1) m) :
    List.Pairwise (fun c d : Host.Cell => c.1 < d.1) (Memory.insert a b m) := by
  induction m with
  | nil => simp [Memory.insert]
  | cons d m ih =>
    obtain ⟨k, e⟩ := d
    rw [List.pairwise_cons] at h
    simp only [Memory.insert]
    split
    · rename_i hk
      refine List.pairwise_cons.2 ⟨fun c hc => ?_, List.pairwise_cons.2 h⟩
      rcases List.mem_cons.1 hc with rfl | hc
      · exact hk
      · exact Nat.lt_trans hk (h.1 c hc)
    · split
      · rename_i hk
        exact List.pairwise_cons.2 ⟨fun c hc => hk ▸ h.1 c hc, h.2⟩
      · refine List.pairwise_cons.2 ⟨fun c hc => ?_, ih h.2⟩
        rcases Memory.mem_insert hc with rfl | hc
        · show k < a
          omega
        · exact h.1 c hc

/-- A write inside memory keeps the canonical form. -/
theorem Memory.wf_write {m : Memory} (h : m.wf) {a : Nat} (ha : a < Config.memSize) (b : Byte) : (m.write a b).wf := by
  unfold Memory.write
  split
  · exact ⟨h.1.filter _, fun c hc => h.2 c (List.mem_filter.1 hc).1⟩
  · rename_i hb
    refine ⟨Memory.insert_pairwise a b h.1, fun c hc => ?_⟩
    rcases Memory.mem_insert hc with rfl | hc
    · exact ⟨ha, hb⟩
    · exact h.2 c hc

/-- Writing bytes inside memory keeps the canonical form. -/
theorem Memory.wf_writeBytes (bs : List Byte) {m : Memory} (h : m.wf) {a : Nat} (ha : a + bs.length ≤ Config.memSize) :
    (m.writeBytes a bs).wf := by
  induction bs generalizing m a with
  | nil => exact h
  | cons b bs ih =>
    simp only [List.length_cons] at ha
    exact ih (Memory.wf_write h (by omega) b) (by omega)

@[simp] theorem Memory.wf_nil : Memory.wf [] := ⟨List.Pairwise.nil, by simp⟩

/-- Two memories in canonical form that read the same at every address are the same list. -/
theorem Memory.eq_of_read_eq : ∀ {m n : Memory}, m.wf → n.wf → (∀ a, m.read a = n.read a) → m = n := by
  have skip : ∀ {m : Memory} {a : Nat}, (∀ c ∈ m, a < c.1) → m.read a = resetByte a := by
    intro m a h
    induction m with
    | nil => rfl
    | cons c m ih =>
      obtain ⟨k, b⟩ := c
      have hk : a < k := h (k, b) (by simp)
      rw [Memory.read, if_neg (by omega)]
      exact ih fun c hc => h c (by simp [hc])
  intro m
  induction m with
  | nil =>
    intro n _ hn h
    cases n with
    | nil => rfl
    | cons d n =>
      obtain ⟨k, b⟩ := d
      have := h k
      simp only [Memory.read, if_true] at this
      exact absurd this.symm (hn.2 (k, b) (by simp)).2
  | cons c m ih =>
    intro n hm hn h
    obtain ⟨k, b⟩ := c
    obtain ⟨hm1, hm2⟩ := hm
    rw [List.pairwise_cons] at hm1
    have hkb := (hm2 (k, b) (by simp)).2
    have hread : Memory.read ((k, b) :: m) k = b := by simp [Memory.read]
    cases n with
    | nil =>
      have := h k
      rw [hread] at this
      exact absurd this hkb
    | cons d n =>
      obtain ⟨l, e⟩ := d
      obtain ⟨hn1, hn2⟩ := hn
      rw [List.pairwise_cons] at hn1
      have hle := (hn2 (l, e) (by simp)).2
      have hkl : k = l := by
        rcases Nat.lt_trichotomy k l with hlt | heq | hgt
        · have h1 := h k
          rw [hread, skip (m := (l, e) :: n) (a := k)] at h1
          · exact absurd h1 hkb
          · intro c hc
            rcases List.mem_cons.1 hc with rfl | hc
            · exact hlt
            · exact Nat.lt_trans hlt (hn1.1 c hc)
        · exact heq
        · have h1 := h l
          rw [skip (m := (k, b) :: m) (a := l)] at h1
          · simp only [Memory.read, if_true] at h1
            exact absurd h1.symm hle
          · intro c hc
            rcases List.mem_cons.1 hc with rfl | hc
            · exact hgt
            · exact Nat.lt_trans hgt (hm1.1 c hc)
      subst l
      have hbe : b = e := by simpa [Memory.read] using h k
      subst e
      refine congrArg _ (ih ⟨hm1.2, fun c hc => hm2 c (by simp [hc])⟩ ⟨hn1.2, fun c hc => hn2 c (by simp [hc])⟩ fun a => ?_)
      by_cases ha : k = a
      · subst a
        rw [skip hm1.1, skip hn1.1]
      · simpa [Memory.read, ha] using h a

end Sys2Proof.Machine
end

