-- ==== Sys2Proof/Laws/State.lean ====
section
/-! SUPPORT. One lemma per field per update of the state, so that no later proof unfolds a record update; and reading a
register after an update. -/

namespace Sys2Proof.Machine

variable (s : State)

@[simp] theorem State.writeV_v (x : Reg) (b : Byte) : (s.writeV x b).v = s.v.set x b := rfl
@[simp] theorem State.writeV_i (x : Reg) (b : Byte) : (s.writeV x b).i = s.i := rfl
@[simp] theorem State.writeV_pc (x : Reg) (b : Byte) : (s.writeV x b).pc = s.pc := rfl
@[simp] theorem State.writeV_stack (x : Reg) (b : Byte) : (s.writeV x b).stack = s.stack := rfl
@[simp] theorem State.writeV_sp (x : Reg) (b : Byte) : (s.writeV x b).sp = s.sp := rfl
@[simp] theorem State.writeV_dt (x : Reg) (b : Byte) : (s.writeV x b).dt = s.dt := rfl
@[simp] theorem State.writeV_st (x : Reg) (b : Byte) : (s.writeV x b).st = s.st := rfl
@[simp] theorem State.writeV_mem (x : Reg) (b : Byte) : (s.writeV x b).mem = s.mem := rfl
@[simp] theorem State.writeV_disp (x : Reg) (b : Byte) : (s.writeV x b).disp = s.disp := rfl
@[simp] theorem State.writeV_key (x : Reg) (b : Byte) : (s.writeV x b).key = s.key := rfl
@[simp] theorem State.writeV_opcode (x : Reg) (b : Byte) : (s.writeV x b).opcode = s.opcode := rfl
@[simp] theorem State.writeV_fault (x : Reg) (b : Byte) : (s.writeV x b).fault = s.fault := rfl
@[simp] theorem State.writeV_draws (x : Reg) (b : Byte) : (s.writeV x b).draws = s.draws := rfl
@[simp] theorem State.writeV_params (x : Reg) (b : Byte) : (s.writeV x b).params = s.params := rfl

@[simp] theorem State.writeFlag_v (b : Bool) : (s.writeFlag b).v = s.v.set VF (flagByte b) := rfl
@[simp] theorem State.writeFlag_i (b : Bool) : (s.writeFlag b).i = s.i := rfl
@[simp] theorem State.writeFlag_pc (b : Bool) : (s.writeFlag b).pc = s.pc := rfl
@[simp] theorem State.writeFlag_stack (b : Bool) : (s.writeFlag b).stack = s.stack := rfl
@[simp] theorem State.writeFlag_sp (b : Bool) : (s.writeFlag b).sp = s.sp := rfl
@[simp] theorem State.writeFlag_dt (b : Bool) : (s.writeFlag b).dt = s.dt := rfl
@[simp] theorem State.writeFlag_st (b : Bool) : (s.writeFlag b).st = s.st := rfl
@[simp] theorem State.writeFlag_mem (b : Bool) : (s.writeFlag b).mem = s.mem := rfl
@[simp] theorem State.writeFlag_disp (b : Bool) : (s.writeFlag b).disp = s.disp := rfl
@[simp] theorem State.writeFlag_key (b : Bool) : (s.writeFlag b).key = s.key := rfl
@[simp] theorem State.writeFlag_opcode (b : Bool) : (s.writeFlag b).opcode = s.opcode := rfl
@[simp] theorem State.writeFlag_fault (b : Bool) : (s.writeFlag b).fault = s.fault := rfl
@[simp] theorem State.writeFlag_draws (b : Bool) : (s.writeFlag b).draws = s.draws := rfl
@[simp] theorem State.writeFlag_params (b : Bool) : (s.writeFlag b).params = s.params := rfl

@[simp] theorem State.setI_v (w : Word) : (s.setI w).v = s.v := rfl
@[simp] theorem State.setI_i (w : Word) : (s.setI w).i = w := rfl
@[simp] theorem State.setI_pc (w : Word) : (s.setI w).pc = s.pc := rfl
@[simp] theorem State.setI_stack (w : Word) : (s.setI w).stack = s.stack := rfl
@[simp] theorem State.setI_sp (w : Word) : (s.setI w).sp = s.sp := rfl
@[simp] theorem State.setI_dt (w : Word) : (s.setI w).dt = s.dt := rfl
@[simp] theorem State.setI_st (w : Word) : (s.setI w).st = s.st := rfl
@[simp] theorem State.setI_mem (w : Word) : (s.setI w).mem = s.mem := rfl
@[simp] theorem State.setI_disp (w : Word) : (s.setI w).disp = s.disp := rfl
@[simp] theorem State.setI_key (w : Word) : (s.setI w).key = s.key := rfl
@[simp] theorem State.setI_opcode (w : Word) : (s.setI w).opcode = s.opcode := rfl
@[simp] theorem State.setI_fault (w : Word) : (s.setI w).fault = s.fault := rfl
@[simp] theorem State.setI_draws (w : Word) : (s.setI w).draws = s.draws := rfl
@[simp] theorem State.setI_params (w : Word) : (s.setI w).params = s.params := rfl
@[simp] theorem State.setI_readV (w : Word) (r : Reg) : (s.setI w).readV r = s.readV r := rfl

@[simp] theorem State.setPc_v (w : Word) : (s.setPc w).v = s.v := rfl
@[simp] theorem State.setPc_i (w : Word) : (s.setPc w).i = s.i := rfl
@[simp] theorem State.setPc_pc (w : Word) : (s.setPc w).pc = w := rfl
@[simp] theorem State.setPc_stack (w : Word) : (s.setPc w).stack = s.stack := rfl
@[simp] theorem State.setPc_sp (w : Word) : (s.setPc w).sp = s.sp := rfl
@[simp] theorem State.setPc_dt (w : Word) : (s.setPc w).dt = s.dt := rfl
@[simp] theorem State.setPc_st (w : Word) : (s.setPc w).st = s.st := rfl
@[simp] theorem State.setPc_mem (w : Word) : (s.setPc w).mem = s.mem := rfl
@[simp] theorem State.setPc_disp (w : Word) : (s.setPc w).disp = s.disp := rfl
@[simp] theorem State.setPc_key (w : Word) : (s.setPc w).key = s.key := rfl
@[simp] theorem State.setPc_opcode (w : Word) : (s.setPc w).opcode = s.opcode := rfl
@[simp] theorem State.setPc_fault (w : Word) : (s.setPc w).fault = s.fault := rfl
@[simp] theorem State.setPc_draws (w : Word) : (s.setPc w).draws = s.draws := rfl
@[simp] theorem State.setPc_params (w : Word) : (s.setPc w).params = s.params := rfl
@[simp] theorem State.setPc_readV (w : Word) (r : Reg) : (s.setPc w).readV r = s.readV r := rfl

@[simp] theorem State.setDT_v (b : Byte) : (s.setDT b).v = s.v := rfl
@[simp] theorem State.setDT_i (b : Byte) : (s.setDT b).i = s.i := rfl
@[simp] theorem State.setDT_pc (b : Byte) : (s.setDT b).pc = s.pc := rfl
@[simp] theorem State.setDT_stack (b : Byte) : (s.setDT b).stack = s.stack := rfl
@[simp] theorem State.setDT_sp (b : Byte) : (s.setDT b).sp = s.sp := rfl
@[simp] theorem State.setDT_dt (b : Byte) : (s.setDT b).dt = b := rfl
@[simp] theorem State.setDT_st (b : Byte) : (s.setDT b).st = s.st := rfl
@[simp] theorem State.setDT_mem (b : Byte) : (s.setDT b).mem = s.mem := rfl
@[simp] theorem State.setDT_disp (b : Byte) : (s.setDT b).disp = s.disp := rfl
@[simp] theorem State.setDT_key (b : Byte) : (s.setDT b).key = s.key := rfl
@[simp] theorem State.setDT_opcode (b : Byte) : (s.setDT b).opcode = s.opcode := rfl
@[simp] theorem State.setDT_fault (b : Byte) : (s.setDT b).fault = s.fault := rfl
@[simp] theorem State.setDT_draws (b : Byte) : (s.setDT b).draws = s.draws := rfl
@[simp] theorem State.setDT_params (b : Byte) : (s.setDT b).params = s.params := rfl
@[simp] theorem State.setDT_readV (b : Byte) (r : Reg) : (s.setDT b).readV r = s.readV r := rfl

@[simp] theorem State.setST_v (b : Byte) : (s.setST b).v = s.v := rfl
@[simp] theorem State.setST_i (b : Byte) : (s.setST b).i = s.i := rfl
@[simp] theorem State.setST_pc (b : Byte) : (s.setST b).pc = s.pc := rfl
@[simp] theorem State.setST_stack (b : Byte) : (s.setST b).stack = s.stack := rfl
@[simp] theorem State.setST_sp (b : Byte) : (s.setST b).sp = s.sp := rfl
@[simp] theorem State.setST_dt (b : Byte) : (s.setST b).dt = s.dt := rfl
@[simp] theorem State.setST_st (b : Byte) : (s.setST b).st = b := rfl
@[simp] theorem State.setST_mem (b : Byte) : (s.setST b).mem = s.mem := rfl
@[simp] theorem State.setST_disp (b : Byte) : (s.setST b).disp = s.disp := rfl
@[simp] theorem State.setST_key (b : Byte) : (s.setST b).key = s.key := rfl
@[simp] theorem State.setST_opcode (b : Byte) : (s.setST b).opcode = s.opcode := rfl
@[simp] theorem State.setST_fault (b : Byte) : (s.setST b).fault = s.fault := rfl
@[simp] theorem State.setST_draws (b : Byte) : (s.setST b).draws = s.draws := rfl
@[simp] theorem State.setST_params (b : Byte) : (s.setST b).params = s.params := rfl
@[simp] theorem State.setST_readV (b : Byte) (r : Reg) : (s.setST b).readV r = s.readV r := rfl

@[simp] theorem State.setMem_v (m : Memory) : (s.setMem m).v = s.v := rfl
@[simp] theorem State.setMem_i (m : Memory) : (s.setMem m).i = s.i := rfl
@[simp] theorem State.setMem_pc (m : Memory) : (s.setMem m).pc = s.pc := rfl
@[simp] theorem State.setMem_stack (m : Memory) : (s.setMem m).stack = s.stack := rfl
@[simp] theorem State.setMem_sp (m : Memory) : (s.setMem m).sp = s.sp := rfl
@[simp] theorem State.setMem_dt (m : Memory) : (s.setMem m).dt = s.dt := rfl
@[simp] theorem State.setMem_st (m : Memory) : (s.setMem m).st = s.st := rfl
@[simp] theorem State.setMem_mem (m : Memory) : (s.setMem m).mem = m := rfl
@[simp] theorem State.setMem_disp (m : Memory) : (s.setMem m).disp = s.disp := rfl
@[simp] theorem State.setMem_key (m : Memory) : (s.setMem m).key = s.key := rfl
@[simp] theorem State.setMem_opcode (m : Memory) : (s.setMem m).opcode = s.opcode := rfl
@[simp] theorem State.setMem_fault (m : Memory) : (s.setMem m).fault = s.fault := rfl
@[simp] theorem State.setMem_draws (m : Memory) : (s.setMem m).draws = s.draws := rfl
@[simp] theorem State.setMem_params (m : Memory) : (s.setMem m).params = s.params := rfl
@[simp] theorem State.setMem_readV (m : Memory) (r : Reg) : (s.setMem m).readV r = s.readV r := rfl

@[simp] theorem State.setDisp_v (d : Display) : (s.setDisp d).v = s.v := rfl
@[simp] theorem State.setDisp_i (d : Display) : (s.setDisp d).i = s.i := rfl
@[simp] theorem State.setDisp_pc (d : Display) : (s.setDisp d).pc = s.pc := rfl
@[simp] theorem State.setDisp_stack (d : Display) : (s.setDisp d).stack = s.stack := rfl
@[simp] theorem State.setDisp_sp (d : Display) : (s.setDisp d).sp = s.sp := rfl
@[simp] theorem State.setDisp_dt (d : Display) : (s.setDisp d).dt = s.dt := rfl
@[simp] theorem State.setDisp_st (d : Display) : (s.setDisp d).st = s.st := rfl
@[simp] theorem State.setDisp_mem (d : Display) : (s.setDisp d).mem = s.mem := rfl
@[simp] theorem State.setDisp_disp (d : Display) : (s.setDisp d).disp = d := rfl
@[simp] theorem State.setDisp_key (d : Display) : (s.setDisp d).key = s.key := rfl
@[simp] theorem State.setDisp_opcode (d : Display) : (s.setDisp d).opcode = s.opcode := rfl
@[simp] theorem State.setDisp_fault (d : Display) : (s.setDisp d).fault = s.fault := rfl
@[simp] theorem State.setDisp_draws (d : Display) : (s.setDisp d).draws = s.draws := rfl
@[simp] theorem State.setDisp_params (d : Display) : (s.setDisp d).params = s.params := rfl
@[simp] theorem State.setDisp_readV (d : Display) (r : Reg) : (s.setDisp d).readV r = s.readV r := rfl

@[simp] theorem State.setOpcode_v (w : Word) : (s.setOpcode w).v = s.v := rfl
@[simp] theorem State.setOpcode_i (w : Word) : (s.setOpcode w).i = s.i := rfl
@[simp] theorem State.setOpcode_pc (w : Word) : (s.setOpcode w).pc = s.pc := rfl
@[simp] theorem State.setOpcode_stack (w : Word) : (s.setOpcode w).stack = s.stack := rfl
@[simp] theorem State.setOpcode_sp (w : Word) : (s.setOpcode w).sp = s.sp := rfl
@[simp] theorem State.setOpcode_dt (w : Word) : (s.setOpcode w).dt = s.dt := rfl
@[simp] theorem State.setOpcode_st (w : Word) : (s.setOpcode w).st = s.st := rfl
@[simp] theorem State.setOpcode_mem (w : Word) : (s.setOpcode w).mem = s.mem := rfl
@[simp] theorem State.setOpcode_disp (w : Word) : (s.setOpcode w).disp = s.disp := rfl
@[simp] theorem State.setOpcode_key (w : Word) : (s.setOpcode w).key = s.key := rfl
@[simp] theorem State.setOpcode_opcode (w : Word) : (s.setOpcode w).opcode = w := rfl
@[simp] theorem State.setOpcode_fault (w : Word) : (s.setOpcode w).fault = s.fault := rfl
@[simp] theorem State.setOpcode_draws (w : Word) : (s.setOpcode w).draws = s.draws := rfl
@[simp] theorem State.setOpcode_params (w : Word) : (s.setOpcode w).params = s.params := rfl
@[simp] theorem State.setOpcode_readV (w : Word) (r : Reg) : (s.setOpcode w).readV r = s.readV r := rfl

@[simp] theorem State.setKey_v (k : Vector Bool 16) : (s.setKey k).v = s.v := rfl
@[simp] theorem State.setKey_i (k : Vector Bool 16) : (s.setKey k).i = s.i := rfl
@[simp] theorem State.setKey_pc (k : Vector Bool 16) : (s.setKey k).pc = s.pc := rfl
@[simp] theorem State.setKey_stack (k : Vector Bool 16) : (s.setKey k).stack = s.stack := rfl
@[simp] theorem State.setKey_sp (k : Vector Bool 16) : (s.setKey k).sp = s.sp := rfl
@[simp] theorem State.setKey_dt (k : Vector Bool 16) : (s.setKey k).dt = s.dt := rfl
@[simp] theorem State.setKey_st (k : Vector Bool 16) : (s.setKey k).st = s.st := rfl
@[simp] theorem State.setKey_mem (k : Vector Bool 16) : (s.setKey k).mem = s.mem := rfl
@[simp] theorem State.setKey_disp (k : Vector Bool 16) : (s.setKey k).disp = s.disp := rfl
@[simp] theorem State.setKey_key (k : Vector Bool 16) : (s.setKey k).key = k := rfl
@[simp] theorem State.setKey_opcode (k : Vector Bool 16) : (s.setKey k).opcode = s.opcode := rfl
@[simp] theorem State.setKey_fault (k : Vector Bool 16) : (s.setKey k).fault = s.fault := rfl
@[simp] theorem State.setKey_draws (k : Vector Bool 16) : (s.setKey k).draws = s.draws := rfl
@[simp] theorem State.setKey_params (k : Vector Bool 16) : (s.setKey k).params = s.params := rfl
@[simp] theorem State.setKey_readV (k : Vector Bool 16) (r : Reg) : (s.setKey k).readV r = s.readV r := rfl

@[simp] theorem State.setFault_v (f : Option FaultRecord) : (s.setFault f).v = s.v := rfl
@[simp] theorem State.setFault_i (f : Option FaultRecord) : (s.setFault f).i = s.i := rfl
@[simp] theorem State.setFault_pc (f : Option FaultRecord) : (s.setFault f).pc = s.pc := rfl
@[simp] theorem State.setFault_stack (f : Option FaultRecord) : (s.setFault f).stack = s.stack := rfl
@[simp] theorem State.setFault_sp (f : Option FaultRecord) : (s.setFault f).sp = s.sp := rfl
@[simp] theorem State.setFault_dt (f : Option FaultRecord) : (s.setFault f).dt = s.dt := rfl
@[simp] theorem State.setFault_st (f : Option FaultRecord) : (s.setFault f).st = s.st := rfl
@[simp] theorem State.setFault_mem (f : Option FaultRecord) : (s.setFault f).mem = s.mem := rfl
@[simp] theorem State.setFault_disp (f : Option FaultRecord) : (s.setFault f).disp = s.disp := rfl
@[simp] theorem State.setFault_key (f : Option FaultRecord) : (s.setFault f).key = s.key := rfl
@[simp] theorem State.setFault_opcode (f : Option FaultRecord) : (s.setFault f).opcode = s.opcode := rfl
@[simp] theorem State.setFault_fault (f : Option FaultRecord) : (s.setFault f).fault = f := rfl
@[simp] theorem State.setFault_draws (f : Option FaultRecord) : (s.setFault f).draws = s.draws := rfl
@[simp] theorem State.setFault_params (f : Option FaultRecord) : (s.setFault f).params = s.params := rfl
@[simp] theorem State.setFault_readV (f : Option FaultRecord) (r : Reg) : (s.setFault f).readV r = s.readV r := rfl

@[simp] theorem State.setStack_v (j : Fin 16) (w : Word) : (s.setStack j w).v = s.v := rfl
@[simp] theorem State.setStack_i (j : Fin 16) (w : Word) : (s.setStack j w).i = s.i := rfl
@[simp] theorem State.setStack_pc (j : Fin 16) (w : Word) : (s.setStack j w).pc = s.pc := rfl
@[simp] theorem State.setStack_stack (j : Fin 16) (w : Word) : (s.setStack j w).stack = s.stack.set j w := rfl
@[simp] theorem State.setStack_sp (j : Fin 16) (w : Word) : (s.setStack j w).sp = s.sp := rfl
@[simp] theorem State.setStack_dt (j : Fin 16) (w : Word) : (s.setStack j w).dt = s.dt := rfl
@[simp] theorem State.setStack_st (j : Fin 16) (w : Word) : (s.setStack j w).st = s.st := rfl
@[simp] theorem State.setStack_mem (j : Fin 16) (w : Word) : (s.setStack j w).mem = s.mem := rfl
@[simp] theorem State.setStack_disp (j : Fin 16) (w : Word) : (s.setStack j w).disp = s.disp := rfl
@[simp] theorem State.setStack_key (j : Fin 16) (w : Word) : (s.setStack j w).key = s.key := rfl
@[simp] theorem State.setStack_opcode (j : Fin 16) (w : Word) : (s.setStack j w).opcode = s.opcode := rfl
@[simp] theorem State.setStack_fault (j : Fin 16) (w : Word) : (s.setStack j w).fault = s.fault := rfl
@[simp] theorem State.setStack_draws (j : Fin 16) (w : Word) : (s.setStack j w).draws = s.draws := rfl
@[simp] theorem State.setStack_params (j : Fin 16) (w : Word) : (s.setStack j w).params = s.params := rfl
@[simp] theorem State.setStack_readV (j : Fin 16) (w : Word) (r : Reg) : (s.setStack j w).readV r = s.readV r := rfl

@[simp] theorem State.setSp_v (p : Fin 17) : (s.setSp p).v = s.v := rfl
@[simp] theorem State.setSp_i (p : Fin 17) : (s.setSp p).i = s.i := rfl
@[simp] theorem State.setSp_pc (p : Fin 17) : (s.setSp p).pc = s.pc := rfl
@[simp] theorem State.setSp_stack (p : Fin 17) : (s.setSp p).stack = s.stack := rfl
@[simp] theorem State.setSp_sp (p : Fin 17) : (s.setSp p).sp = p := rfl
@[simp] theorem State.setSp_dt (p : Fin 17) : (s.setSp p).dt = s.dt := rfl
@[simp] theorem State.setSp_st (p : Fin 17) : (s.setSp p).st = s.st := rfl
@[simp] theorem State.setSp_mem (p : Fin 17) : (s.setSp p).mem = s.mem := rfl
@[simp] theorem State.setSp_disp (p : Fin 17) : (s.setSp p).disp = s.disp := rfl
@[simp] theorem State.setSp_key (p : Fin 17) : (s.setSp p).key = s.key := rfl
@[simp] theorem State.setSp_opcode (p : Fin 17) : (s.setSp p).opcode = s.opcode := rfl
@[simp] theorem State.setSp_fault (p : Fin 17) : (s.setSp p).fault = s.fault := rfl
@[simp] theorem State.setSp_draws (p : Fin 17) : (s.setSp p).draws = s.draws := rfl
@[simp] theorem State.setSp_params (p : Fin 17) : (s.setSp p).params = s.params := rfl
@[simp] theorem State.setSp_readV (p : Fin 17) (r : Reg) : (s.setSp p).readV r = s.readV r := rfl

@[simp] theorem State.nextDraw_v : (s.nextDraw).v = s.v := rfl
@[simp] theorem State.nextDraw_i : (s.nextDraw).i = s.i := rfl
@[simp] theorem State.nextDraw_pc : (s.nextDraw).pc = s.pc := rfl
@[simp] theorem State.nextDraw_stack : (s.nextDraw).stack = s.stack := rfl
@[simp] theorem State.nextDraw_sp : (s.nextDraw).sp = s.sp := rfl
@[simp] theorem State.nextDraw_dt : (s.nextDraw).dt = s.dt := rfl
@[simp] theorem State.nextDraw_st : (s.nextDraw).st = s.st := rfl
@[simp] theorem State.nextDraw_mem : (s.nextDraw).mem = s.mem := rfl
@[simp] theorem State.nextDraw_disp : (s.nextDraw).disp = s.disp := rfl
@[simp] theorem State.nextDraw_key : (s.nextDraw).key = s.key := rfl
@[simp] theorem State.nextDraw_opcode : (s.nextDraw).opcode = s.opcode := rfl
@[simp] theorem State.nextDraw_fault : (s.nextDraw).fault = s.fault := rfl
@[simp] theorem State.nextDraw_draws : (s.nextDraw).draws = s.draws + 1 := rfl
@[simp] theorem State.nextDraw_params : (s.nextDraw).params = s.params := rfl
@[simp] theorem State.nextDraw_readV (r : Reg) : (s.nextDraw).readV r = s.readV r := rfl

@[simp] theorem State.advance_v : (s.advance).v = s.v := rfl
@[simp] theorem State.advance_i : (s.advance).i = s.i := rfl
@[simp] theorem State.advance_pc : (s.advance).pc = s.pc + 2 := rfl
@[simp] theorem State.advance_stack : (s.advance).stack = s.stack := rfl
@[simp] theorem State.advance_sp : (s.advance).sp = s.sp := rfl
@[simp] theorem State.advance_dt : (s.advance).dt = s.dt := rfl
@[simp] theorem State.advance_st : (s.advance).st = s.st := rfl
@[simp] theorem State.advance_mem : (s.advance).mem = s.mem := rfl
@[simp] theorem State.advance_disp : (s.advance).disp = s.disp := rfl
@[simp] theorem State.advance_key : (s.advance).key = s.key := rfl
@[simp] theorem State.advance_opcode : (s.advance).opcode = s.opcode := rfl
@[simp] theorem State.advance_fault : (s.advance).fault = s.fault := rfl
@[simp] theorem State.advance_draws : (s.advance).draws = s.draws := rfl
@[simp] theorem State.advance_params : (s.advance).params = s.params := rfl
@[simp] theorem State.advance_readV (r : Reg) : (s.advance).readV r = s.readV r := rfl

@[simp] theorem State.pushAndJump_v (j : Fin 16) (w : Word) : (s.pushAndJump j w).v = s.v := rfl
@[simp] theorem State.pushAndJump_i (j : Fin 16) (w : Word) : (s.pushAndJump j w).i = s.i := rfl
@[simp] theorem State.pushAndJump_pc (j : Fin 16) (w : Word) : (s.pushAndJump j w).pc = w := rfl
@[simp] theorem State.pushAndJump_stack (j : Fin 16) (w : Word) : (s.pushAndJump j w).stack = s.stack.set j s.pc := rfl
@[simp] theorem State.pushAndJump_sp (j : Fin 16) (w : Word) : (s.pushAndJump j w).sp = j.succ := rfl
@[simp] theorem State.pushAndJump_dt (j : Fin 16) (w : Word) : (s.pushAndJump j w).dt = s.dt := rfl
@[simp] theorem State.pushAndJump_st (j : Fin 16) (w : Word) : (s.pushAndJump j w).st = s.st := rfl
@[simp] theorem State.pushAndJump_mem (j : Fin 16) (w : Word) : (s.pushAndJump j w).mem = s.mem := rfl
@[simp] theorem State.pushAndJump_disp (j : Fin 16) (w : Word) : (s.pushAndJump j w).disp = s.disp := rfl
@[simp] theorem State.pushAndJump_key (j : Fin 16) (w : Word) : (s.pushAndJump j w).key = s.key := rfl
@[simp] theorem State.pushAndJump_opcode (j : Fin 16) (w : Word) : (s.pushAndJump j w).opcode = s.opcode := rfl
@[simp] theorem State.pushAndJump_fault (j : Fin 16) (w : Word) : (s.pushAndJump j w).fault = s.fault := rfl
@[simp] theorem State.pushAndJump_draws (j : Fin 16) (w : Word) : (s.pushAndJump j w).draws = s.draws := rfl
@[simp] theorem State.pushAndJump_params (j : Fin 16) (w : Word) : (s.pushAndJump j w).params = s.params := rfl
@[simp] theorem State.pushAndJump_readV (j : Fin 16) (w : Word) (r : Reg) : (s.pushAndJump j w).readV r = s.readV r := rfl

@[simp] theorem State.popAndJump_v (j : Fin 16) : (s.popAndJump j).v = s.v := rfl
@[simp] theorem State.popAndJump_i (j : Fin 16) : (s.popAndJump j).i = s.i := rfl
@[simp] theorem State.popAndJump_pc (j : Fin 16) : (s.popAndJump j).pc = s.stack[j] := rfl
@[simp] theorem State.popAndJump_stack (j : Fin 16) : (s.popAndJump j).stack = s.stack := rfl
@[simp] theorem State.popAndJump_sp (j : Fin 16) : (s.popAndJump j).sp = j.castSucc := rfl
@[simp] theorem State.popAndJump_dt (j : Fin 16) : (s.popAndJump j).dt = s.dt := rfl
@[simp] theorem State.popAndJump_st (j : Fin 16) : (s.popAndJump j).st = s.st := rfl
@[simp] theorem State.popAndJump_mem (j : Fin 16) : (s.popAndJump j).mem = s.mem := rfl
@[simp] theorem State.popAndJump_disp (j : Fin 16) : (s.popAndJump j).disp = s.disp := rfl
@[simp] theorem State.popAndJump_key (j : Fin 16) : (s.popAndJump j).key = s.key := rfl
@[simp] theorem State.popAndJump_opcode (j : Fin 16) : (s.popAndJump j).opcode = s.opcode := rfl
@[simp] theorem State.popAndJump_fault (j : Fin 16) : (s.popAndJump j).fault = s.fault := rfl
@[simp] theorem State.popAndJump_draws (j : Fin 16) : (s.popAndJump j).draws = s.draws := rfl
@[simp] theorem State.popAndJump_params (j : Fin 16) : (s.popAndJump j).params = s.params := rfl
@[simp] theorem State.popAndJump_readV (j : Fin 16) (r : Reg) : (s.popAndJump j).readV r = s.readV r := rfl

@[simp] theorem State.latch_v (c : Fault) (n : Nat) (a : Word) : (s.latch c n a).v = s.v := rfl
@[simp] theorem State.latch_i (c : Fault) (n : Nat) (a : Word) : (s.latch c n a).i = s.i := rfl
@[simp] theorem State.latch_pc (c : Fault) (n : Nat) (a : Word) : (s.latch c n a).pc = s.pc := rfl
@[simp] theorem State.latch_stack (c : Fault) (n : Nat) (a : Word) : (s.latch c n a).stack = s.stack := rfl
@[simp] theorem State.latch_sp (c : Fault) (n : Nat) (a : Word) : (s.latch c n a).sp = s.sp := rfl
@[simp] theorem State.latch_dt (c : Fault) (n : Nat) (a : Word) : (s.latch c n a).dt = s.dt := rfl
@[simp] theorem State.latch_st (c : Fault) (n : Nat) (a : Word) : (s.latch c n a).st = s.st := rfl
@[simp] theorem State.latch_mem (c : Fault) (n : Nat) (a : Word) : (s.latch c n a).mem = s.mem := rfl
@[simp] theorem State.latch_disp (c : Fault) (n : Nat) (a : Word) : (s.latch c n a).disp = s.disp := rfl
@[simp] theorem State.latch_key (c : Fault) (n : Nat) (a : Word) : (s.latch c n a).key = s.key := rfl
@[simp] theorem State.latch_opcode (c : Fault) (n : Nat) (a : Word) : (s.latch c n a).opcode = s.opcode := rfl
@[simp] theorem State.latch_fault (c : Fault) (n : Nat) (a : Word) : (s.latch c n a).fault = some ⟨c, n, a⟩ := rfl
@[simp] theorem State.latch_draws (c : Fault) (n : Nat) (a : Word) : (s.latch c n a).draws = s.draws := rfl
@[simp] theorem State.latch_params (c : Fault) (n : Nat) (a : Word) : (s.latch c n a).params = s.params := rfl
@[simp] theorem State.latch_readV (c : Fault) (n : Nat) (a : Word) (r : Reg) : (s.latch c n a).readV r = s.readV r := rfl

@[simp] theorem State.storeBytes_v (a : Nat) (bs : List Byte) : (s.storeBytes a bs).v = s.v := rfl
@[simp] theorem State.storeBytes_i (a : Nat) (bs : List Byte) : (s.storeBytes a bs).i = s.i := rfl
@[simp] theorem State.storeBytes_pc (a : Nat) (bs : List Byte) : (s.storeBytes a bs).pc = s.pc := rfl
@[simp] theorem State.storeBytes_stack (a : Nat) (bs : List Byte) : (s.storeBytes a bs).stack = s.stack := rfl
@[simp] theorem State.storeBytes_sp (a : Nat) (bs : List Byte) : (s.storeBytes a bs).sp = s.sp := rfl
@[simp] theorem State.storeBytes_dt (a : Nat) (bs : List Byte) : (s.storeBytes a bs).dt = s.dt := rfl
@[simp] theorem State.storeBytes_st (a : Nat) (bs : List Byte) : (s.storeBytes a bs).st = s.st := rfl
@[simp] theorem State.storeBytes_mem (a : Nat) (bs : List Byte) : (s.storeBytes a bs).mem = s.mem.writeBytes a bs := rfl
@[simp] theorem State.storeBytes_disp (a : Nat) (bs : List Byte) : (s.storeBytes a bs).disp = s.disp := rfl
@[simp] theorem State.storeBytes_key (a : Nat) (bs : List Byte) : (s.storeBytes a bs).key = s.key := rfl
@[simp] theorem State.storeBytes_opcode (a : Nat) (bs : List Byte) : (s.storeBytes a bs).opcode = s.opcode := rfl
@[simp] theorem State.storeBytes_fault (a : Nat) (bs : List Byte) : (s.storeBytes a bs).fault = s.fault := rfl
@[simp] theorem State.storeBytes_draws (a : Nat) (bs : List Byte) : (s.storeBytes a bs).draws = s.draws := rfl
@[simp] theorem State.storeBytes_params (a : Nat) (bs : List Byte) : (s.storeBytes a bs).params = s.params := rfl
@[simp] theorem State.storeBytes_readV (a : Nat) (bs : List Byte) (r : Reg) : (s.storeBytes a bs).readV r = s.readV r := rfl

@[simp] theorem State.tick_v : (s.tick).v = s.v := rfl
@[simp] theorem State.tick_i : (s.tick).i = s.i := rfl
@[simp] theorem State.tick_pc : (s.tick).pc = s.pc := rfl
@[simp] theorem State.tick_stack : (s.tick).stack = s.stack := rfl
@[simp] theorem State.tick_sp : (s.tick).sp = s.sp := rfl
@[simp] theorem State.tick_dt : (s.tick).dt = tickByte s.dt := rfl
@[simp] theorem State.tick_st : (s.tick).st = tickByte s.st := rfl
@[simp] theorem State.tick_mem : (s.tick).mem = s.mem := rfl
@[simp] theorem State.tick_disp : (s.tick).disp = s.disp := rfl
@[simp] theorem State.tick_key : (s.tick).key = s.key := rfl
@[simp] theorem State.tick_opcode : (s.tick).opcode = s.opcode := rfl
@[simp] theorem State.tick_fault : (s.tick).fault = s.fault := rfl
@[simp] theorem State.tick_draws : (s.tick).draws = s.draws := rfl
@[simp] theorem State.tick_params : (s.tick).params = s.params := rfl
@[simp] theorem State.tick_readV (r : Reg) : (s.tick).readV r = s.readV r := rfl

@[simp] theorem State.fetched_v : (s.fetched).v = s.v := rfl
@[simp] theorem State.fetched_i : (s.fetched).i = s.i := rfl
@[simp] theorem State.fetched_pc : (s.fetched).pc = s.pc + 2 := rfl
@[simp] theorem State.fetched_stack : (s.fetched).stack = s.stack := rfl
@[simp] theorem State.fetched_sp : (s.fetched).sp = s.sp := rfl
@[simp] theorem State.fetched_dt : (s.fetched).dt = s.dt := rfl
@[simp] theorem State.fetched_st : (s.fetched).st = s.st := rfl
@[simp] theorem State.fetched_mem : (s.fetched).mem = s.mem := rfl
@[simp] theorem State.fetched_disp : (s.fetched).disp = s.disp := rfl
@[simp] theorem State.fetched_key : (s.fetched).key = s.key := rfl
@[simp] theorem State.fetched_opcode : (s.fetched).opcode = s.fetchWord := rfl
@[simp] theorem State.fetched_fault : (s.fetched).fault = s.fault := rfl
@[simp] theorem State.fetched_draws : (s.fetched).draws = s.draws := rfl
@[simp] theorem State.fetched_params : (s.fetched).params = s.params := rfl
@[simp] theorem State.fetched_readV (r : Reg) : (s.fetched).readV r = s.readV r := rfl

@[simp] theorem State.loadLowRegs_i (a n : Nat) : (s.loadLowRegs a n).i = s.i := rfl
@[simp] theorem State.loadLowRegs_pc (a n : Nat) : (s.loadLowRegs a n).pc = s.pc := rfl
@[simp] theorem State.loadLowRegs_stack (a n : Nat) : (s.loadLowRegs a n).stack = s.stack := rfl
@[simp] theorem State.loadLowRegs_sp (a n : Nat) : (s.loadLowRegs a n).sp = s.sp := rfl
@[simp] theorem State.loadLowRegs_dt (a n : Nat) : (s.loadLowRegs a n).dt = s.dt := rfl
@[simp] theorem State.loadLowRegs_st (a n : Nat) : (s.loadLowRegs a n).st = s.st := rfl
@[simp] theorem State.loadLowRegs_mem (a n : Nat) : (s.loadLowRegs a n).mem = s.mem := rfl
@[simp] theorem State.loadLowRegs_disp (a n : Nat) : (s.loadLowRegs a n).disp = s.disp := rfl
@[simp] theorem State.loadLowRegs_key (a n : Nat) : (s.loadLowRegs a n).key = s.key := rfl
@[simp] theorem State.loadLowRegs_opcode (a n : Nat) : (s.loadLowRegs a n).opcode = s.opcode := rfl
@[simp] theorem State.loadLowRegs_fault (a n : Nat) : (s.loadLowRegs a n).fault = s.fault := rfl
@[simp] theorem State.loadLowRegs_draws (a n : Nat) : (s.loadLowRegs a n).draws = s.draws := rfl
@[simp] theorem State.loadLowRegs_params (a n : Nat) : (s.loadLowRegs a n).params = s.params := rfl

@[simp] theorem State.drawAt_i (vx vy : Byte) (n : Nat) : (s.drawAt vx vy n).i = s.i := rfl
@[simp] theorem State.drawAt_pc (vx vy : Byte) (n : Nat) : (s.drawAt vx vy n).pc = s.pc := rfl
@[simp] theorem State.drawAt_stack (vx vy : Byte) (n : Nat) : (s.drawAt vx vy n).stack = s.stack := rfl
@[simp] theorem State.drawAt_sp (vx vy : Byte) (n : Nat) : (s.drawAt vx vy n).sp = s.sp := rfl
@[simp] theorem State.drawAt_dt (vx vy : Byte) (n : Nat) : (s.drawAt vx vy n).dt = s.dt := rfl
@[simp] theorem State.drawAt_st (vx vy : Byte) (n : Nat) : (s.drawAt vx vy n).st = s.st := rfl
@[simp] theorem State.drawAt_mem (vx vy : Byte) (n : Nat) : (s.drawAt vx vy n).mem = s.mem := rfl
@[simp] theorem State.drawAt_key (vx vy : Byte) (n : Nat) : (s.drawAt vx vy n).key = s.key := rfl
@[simp] theorem State.drawAt_opcode (vx vy : Byte) (n : Nat) : (s.drawAt vx vy n).opcode = s.opcode := rfl
@[simp] theorem State.drawAt_fault (vx vy : Byte) (n : Nat) : (s.drawAt vx vy n).fault = s.fault := rfl
@[simp] theorem State.drawAt_draws (vx vy : Byte) (n : Nat) : (s.drawAt vx vy n).draws = s.draws := rfl
@[simp] theorem State.drawAt_params (vx vy : Byte) (n : Nat) : (s.drawAt vx vy n).params = s.params := rfl

/-! ### Reset with given parameters: only memory and the parameters depend on them -/

@[simp] theorem State.resetWith_v (p : Params) : (State.resetWith p).v = State.reset.v := rfl
@[simp] theorem State.resetWith_i (p : Params) : (State.resetWith p).i = State.reset.i := rfl
@[simp] theorem State.resetWith_pc (p : Params) : (State.resetWith p).pc = State.reset.pc := rfl
@[simp] theorem State.resetWith_stack (p : Params) : (State.resetWith p).stack = State.reset.stack := rfl
@[simp] theorem State.resetWith_sp (p : Params) : (State.resetWith p).sp = State.reset.sp := rfl
@[simp] theorem State.resetWith_dt (p : Params) : (State.resetWith p).dt = State.reset.dt := rfl
@[simp] theorem State.resetWith_st (p : Params) : (State.resetWith p).st = State.reset.st := rfl
@[simp] theorem State.resetWith_mem (p : Params) : (State.resetWith p).mem = Memory.writeBytes [] Config.fontBase p.font.toList := rfl
@[simp] theorem State.resetWith_disp (p : Params) : (State.resetWith p).disp = State.reset.disp := rfl
@[simp] theorem State.resetWith_key (p : Params) : (State.resetWith p).key = State.reset.key := rfl
@[simp] theorem State.resetWith_opcode (p : Params) : (State.resetWith p).opcode = State.reset.opcode := rfl
@[simp] theorem State.resetWith_fault (p : Params) : (State.resetWith p).fault = State.reset.fault := rfl
@[simp] theorem State.resetWith_draws (p : Params) : (State.resetWith p).draws = State.reset.draws := rfl
@[simp] theorem State.resetWith_params (p : Params) : (State.resetWith p).params = p := rfl
@[simp] theorem State.resetWith_readV (p : Params) (r : Reg) : (State.resetWith p).readV r = State.reset.readV r := rfl

/-! ### Skips: only `pc` can change -/

@[simp] theorem State.skipIf_v (c : Bool) : (s.skipIf c).v = s.v := by cases c <;> rfl
@[simp] theorem State.skipIf_i (c : Bool) : (s.skipIf c).i = s.i := by cases c <;> rfl
@[simp] theorem State.skipIf_pc (c : Bool) : (s.skipIf c).pc = if c then s.pc + 2 else s.pc := by
  cases c <;> rfl
@[simp] theorem State.skipIf_stack (c : Bool) : (s.skipIf c).stack = s.stack := by cases c <;> rfl
@[simp] theorem State.skipIf_sp (c : Bool) : (s.skipIf c).sp = s.sp := by cases c <;> rfl
@[simp] theorem State.skipIf_dt (c : Bool) : (s.skipIf c).dt = s.dt := by cases c <;> rfl
@[simp] theorem State.skipIf_st (c : Bool) : (s.skipIf c).st = s.st := by cases c <;> rfl
@[simp] theorem State.skipIf_mem (c : Bool) : (s.skipIf c).mem = s.mem := by cases c <;> rfl
@[simp] theorem State.skipIf_disp (c : Bool) : (s.skipIf c).disp = s.disp := by cases c <;> rfl
@[simp] theorem State.skipIf_key (c : Bool) : (s.skipIf c).key = s.key := by cases c <;> rfl
@[simp] theorem State.skipIf_opcode (c : Bool) : (s.skipIf c).opcode = s.opcode := by cases c <;> rfl
@[simp] theorem State.skipIf_fault (c : Bool) : (s.skipIf c).fault = s.fault := by cases c <;> rfl
@[simp] theorem State.skipIf_draws (c : Bool) : (s.skipIf c).draws = s.draws := by cases c <;> rfl
@[simp] theorem State.skipIf_params (c : Bool) : (s.skipIf c).params = s.params := by cases c <;> rfl
@[simp] theorem State.skipIf_readV (c : Bool) (r : Reg) : (s.skipIf c).readV r = s.readV r := by cases c <;> rfl

/-! ### Registers and call-stack entries -/

@[simp] theorem State.readV_writeV (x r : Reg) (b : Byte) :
    (s.writeV x b).readV r = if r = x then b else s.readV r := by
  simp only [State.readV, State.writeV_v, Fin.getElem_fin, Vector.getElem_set]
  simp only [Fin.val_inj, eq_comm]

@[simp] theorem State.readV_writeFlag (r : Reg) (b : Bool) :
    (s.writeFlag b).readV r = if r = VF then flagByte b else s.readV r :=
  State.readV_writeV s VF r (flagByte b)

@[simp] theorem State.readV_loadLowRegs (a n : Nat) (r : Reg) :
    (s.loadLowRegs a n).readV r = if r.val < n then s.mem.read (a + r.val) else s.readV r := by
  simp [State.readV, State.loadLowRegs]

theorem State.stack_set_get (j k : Fin 16) (w : Word) :
    (s.stack.set j w)[k] = if k = j then w else s.stack[k] := by
  simp only [Fin.getElem_fin, Vector.getElem_set]
  simp only [Fin.val_inj, eq_comm]

end Sys2Proof.Machine
end

