-- ==== Sys2Proof/Laws/Ops.lean ====
section
/-! SUPPORT. What each shared operation can do, said once. -/

namespace Sys2Proof.Machine

/-! ### Parameters and reset -/

/-- The port presents a byte of RND_SET, whatever the set. -/
theorem RndSet.admits_present (set : RndSet) (b : Byte) : set.admits (set.present b) = true := by
  unfold RndSet.present
  split
  · assumption
  · simp [RndSet.admits]

/-- Every byte of RND_SET can be presented. -/
theorem RndSet.present_of_admits {set : RndSet} {b : Byte} (h : set.admits b = true) : set.present b = b := if_pos h

@[simp] theorem RndSet.full_admits (b : Byte) : RndSet.full.admits b = true := by simp [RndSet.full, RndSet.admits]

/-- The source's RND_SET leaves out 255 and nothing else. -/
theorem RndSet.source_admits (b : Byte) : RndSet.source.admits b = true ↔ b ≠ 255 := by
  simp only [RndSet.source, RndSet.admits, List.contains_cons, List.contains_nil, Bool.or_false, Bool.or_eq_true,
    Bool.not_eq_true', beq_eq_false_iff_ne, beq_iff_eq]
  constructor
  · rintro (h | rfl)
    · exact h
    · decide
  · exact .inl

/-- After reset the font region reads as FONT, and every other address as 0. -/
theorem State.read_resetWith (p : Params) (a : Nat) :
    (State.resetWith p).mem.read a = if 0x050 ≤ a ∧ a < 0x0A0 then p.font.toList.getD (a - 0x050) 0 else 0 := by
  show Memory.read (Memory.writeBytes [] Config.fontBase p.font.toList) a = _
  rw [Memory.read_writeBytes, Vector.length_toList, Memory.read_nil, resetByte]
  by_cases h : 0x050 ≤ a ∧ a < 0x0A0 <;> simp [Config.fontBase, h]

/-- The reset of the interface is the reset with the parameters at their defaults. -/
theorem State.resetWith_default : State.resetWith Params.default = State.reset := by
  have h : Memory.writeBytes [] Config.fontBase Params.default.font.toList = [] := by decide
  rw [State.resetWith, h]
  rfl

/-! ### Raising -/

/-- A raise answers a next state in which nothing but the latch has changed. -/
theorem State.raise_eq (c : Fault) (n : Nat) (s : State) :
    s.raise c n = .next { s with fault := some ⟨c, n, s.pc - 2⟩ } := rfl

/-! ### The checked access and the key index -/

theorem State.checked_fits {base count : Nat} {s : State} {run : State → Host.Outcome State Fault Refusal}
    (h : ¬(1 ≤ count ∧ base + count - 1 > 4095)) : s.checked base count run = run s := if_neg h

theorem State.checked_beyond {base count : Nat} {s : State} {run : State → Host.Outcome State Fault Refusal}
    (h : 1 ≤ count ∧ base + count - 1 > 4095) :
    s.checked base count run = s.raise .memOob (max base 4096) := if_pos h

/-- A checked access either raises MEM_OOB or runs with every address inside memory. -/
theorem State.checked_cases (base count : Nat) (s : State) (run : State → Host.Outcome State Fault Refusal) :
    (base + count - 1 > 4095 ∧ 1 ≤ count ∧ s.checked base count run = s.raise .memOob (max base 4096)) ∨
    ((count = 0 ∨ base + count ≤ Config.memSize) ∧ s.checked base count run = run s) := by
  by_cases h : 1 ≤ count ∧ base + count - 1 > 4095
  · exact .inl ⟨h.2, h.1, State.checked_beyond h⟩
  · refine .inr ⟨?_, State.checked_fits h⟩
    have : Config.memSize = 4096 := rfl
    omega

theorem State.withKey_of_lt {k : Nat} {s : State} {run : Fin 16 → Host.Outcome State Fault Refusal} (h : k < 16) :
    s.withKey k run = run ⟨k, h⟩ := dif_pos h

theorem State.withKey_beyond {k : Nat} {s : State} {run : Fin 16 → Host.Outcome State Fault Refusal} (h : 15 < k) :
    s.withKey k run = s.raise .keyIndexOob k := dif_neg (by omega)

/-! ### Keypad scan -/

/-- The scan finds the least key that is down. -/
theorem State.leastKey_eq_some {s : State} {k : Fin 16} :
    s.leastKey = some k ↔ s.key[k] = true ∧ ∀ j < k, s.key[j] = false := by
  rw [State.leastKey, List.find?_eq_some_iff_getElem]
  constructor
  · rintro ⟨hk, i, hi, rfl, hlt⟩
    refine ⟨hk, fun j hj => ?_⟩
    rw [List.getElem_finRange] at hj
    have := hlt j.val (by simpa [Fin.lt_def] using hj)
    simpa using this
  · rintro ⟨hk, hlt⟩
    refine ⟨hk, k.val, by simp, by simp, fun j hj => ?_⟩
    have := hlt ⟨j, by omega⟩ (by simpa [Fin.lt_def] using hj)
    simpa using this

/-- The scan finds nothing when every key is up. -/
theorem State.leastKey_eq_none {s : State} : s.leastKey = none ↔ ∀ k : Fin 16, s.key[k] = false := by
  rw [State.leastKey, List.find?_eq_none]
  simp

/-! ### Fetch, tick and commit -/

theorem tickByte_toNat (t : Byte) : (tickByte t).toNat = t.toNat - 1 := by
  unfold tickByte
  split
  · subst t; rfl
  · rename_i h
    have h0 : t.toNat ≠ 0 := fun h0 => h (BitVec.eq_of_toNat_eq (by simpa using h0))
    have h1 : (1 : Byte).toNat = 1 := rfl
    have := t.isLt
    rw [BitVec.toNat_sub, h1]
    omega

/-- The fetched word as a number: the byte at `pc` is the high one. -/
theorem State.fetchWord_toNat (s : State) :
    s.fetchWord.toNat = (s.mem.read s.pc.toNat).toNat * 256 + (s.mem.read (s.pc.toNat + 1)).toNat := by
  have h := (s.mem.read (s.pc.toNat + 1)).isLt
  rw [State.fetchWord, BitVec.toNat_append, ← Nat.shiftLeft_add_eq_or_of_lt h, Nat.shiftLeft_eq]

@[simp] theorem State.instrAddr_fetched (s : State) : s.fetched.instrAddr = s.pc := by
  simp [State.instrAddr]

theorem State.commit_raised {s t : State} {r : FaultRecord} (h : t.fault = some r) :
    s.commit t = s.setFault (some r) := by
  rw [State.commit, h]

theorem State.commit_completed {s t : State} (h : t.fault = none) : s.commit t = t.tick := by
  rw [State.commit, h]

/-! ### Widths: the results of 16-bit operands as exact numbers -/

theorem addrOperand_toNat (nnn : Addr12) : (addrOperand nnn).toNat = nnn.toNat := by
  have := nnn.isLt
  rw [addrOperand, BitVec.toNat_setWidth]
  omega

theorem offsetTarget_toNat (b : Byte) (nnn : Addr12) : (offsetTarget b nnn).toNat = b.toNat + nnn.toNat := by
  have := nnn.isLt
  have := b.isLt
  rw [offsetTarget, BitVec.toNat_ofNat]
  omega

theorem glyphAddr_toNat (b : Byte) : (glyphAddr b).toNat = 0x50 + 5 * b.toNat := by
  have := b.isLt
  rw [glyphAddr, BitVec.toNat_ofNat]
  omega

end Sys2Proof.Machine
end

