-- ==== Sys2Proof/Laws/Drawing.lean ====
section
/-! SUPPORT. Drawing: what one pixel, one sprite row and a whole sprite do to every pixel of the display. -/

namespace Sys2Proof.Machine

/-- Toggling one pixel inverts it and leaves every other pixel as it was. -/
theorem pixel_togglePixel (d : Display) (r r' : Fin 32) (c c' : Fin 64) :
    pixel (togglePixel d r c) r' c' = if r' = r ∧ c' = c then !pixel d r' c' else pixel d r' c' := by
  simp only [pixel, togglePixel, Fin.getElem_fin, Vector.getElem_set]
  by_cases hr : r' = r
  · subst r'
    by_cases hc : c' = c
    · subst c'; simp
    · have : ¬(c.val = c'.val) := fun h => hc (Fin.ext h.symm)
      simp [hc, this]
  · have : ¬(r.val = r'.val) := fun h => hr (Fin.ext h.symm)
    simp [hr, this]

@[simp] theorem pixel_blankDisplay (r : Fin 32) (c : Fin 64) : pixel blankDisplay r c = false := by
  simp [pixel, blankDisplay]

/-- Two displays with the same pixels are the same. -/
theorem display_ext {d e : Display} (h : ∀ r c, pixel d r c = pixel e r c) : d = e := by
  apply Vector.ext
  intro r hr
  apply Vector.ext
  intro c hc
  exact h ⟨r, hr⟩ ⟨c, hc⟩

/-- Draw at each of a list of places. -/
def Canvas.drawAll (ps : List (Fin 32 × Fin 64)) (k : Canvas) : Canvas := ps.foldl (fun k p => k.draw p.1 p.2) k

/-- Drawing at distinct places inverts exactly the pixels at them, whatever the order (45_family_D.md R192). -/
theorem Canvas.pixel_drawAll (ps : List (Fin 32 × Fin 64)) (h : ps.Nodup) (k : Canvas) (r : Fin 32) (c : Fin 64) :
    pixel (k.drawAll ps).disp r c = (pixel k.disp r c != decide ((r, c) ∈ ps)) := by
  induction ps generalizing k with
  | nil => simp [Canvas.drawAll]
  | cons p ps ih =>
    obtain ⟨hp, hps⟩ := List.nodup_cons.1 h
    rw [Canvas.drawAll, List.foldl_cons, ← Canvas.drawAll, ih hps]
    simp only [Canvas.draw, pixel_togglePixel, List.mem_cons]
    by_cases e : r = p.1 ∧ c = p.2
    · have : (r, c) = p := by ext <;> simp [e]
      subst p
      simp [hp]
    · have : (r, c) ≠ p := by rintro rfl; exact e ⟨rfl, rfl⟩
      simp [e, this]

/-- Drawing at distinct places reports a collision when a pixel at one of them was on (R192). -/
theorem Canvas.hit_drawAll (ps : List (Fin 32 × Fin 64)) (h : ps.Nodup) (k : Canvas) :
    (k.drawAll ps).hit = (k.hit || ps.any fun p => pixel k.disp p.1 p.2) := by
  induction ps generalizing k with
  | nil => simp [Canvas.drawAll]
  | cons p ps ih =>
    obtain ⟨hp, hps⟩ := List.nodup_cons.1 h
    rw [Canvas.drawAll, List.foldl_cons, ← Canvas.drawAll, ih hps]
    have : (ps.any fun q => pixel (k.draw p.1 p.2).disp q.1 q.2) = ps.any fun q => pixel k.disp q.1 q.2 := by
      rw [Bool.eq_iff_iff, List.any_eq_true, List.any_eq_true]
      refine exists_congr fun q => and_congr_right fun hq => ?_
      rw [Canvas.draw, pixel_togglePixel, if_neg]
      rintro ⟨h1, h2⟩
      exact hp ((Prod.ext h1 h2 : q = p) ▸ hq)
    rw [this, List.any_cons, ← Bool.or_assoc]
    rfl

/-- The places of one sprite row's set bits. -/
def rowPlaces (b : Byte) (r : Fin 32) (x0 : Nat) : List (Fin 32 × Fin 64) :=
  ((List.range 8).filter fun c => b.getLsbD (7 - c)).map fun c => (r, Fin.ofNat 64 (x0 + c))

/-- The places of a sprite's set bits. -/
def spritePlaces (m : Memory) (base n x0 y0 : Nat) : List (Fin 32 × Fin 64) :=
  (List.range n).flatMap fun r => rowPlaces (m.read (base + r)) (Fin.ofNat 32 (y0 + r)) x0

theorem Canvas.drawRow_eq (b : Byte) (r : Fin 32) (x0 : Nat) (k : Canvas) :
    k.drawRow b r x0 = k.drawAll (rowPlaces b r x0) := by
  rw [Canvas.drawAll, rowPlaces, List.foldl_map, List.foldl_filter]
  rfl

theorem Canvas.drawSprite_eq (m : Memory) (base n x0 y0 : Nat) (k : Canvas) :
    k.drawSprite m base n x0 y0 = k.drawAll (spritePlaces m base n x0 y0) := by
  rw [Canvas.drawAll, spritePlaces, List.foldl_flatMap]
  simp only [Canvas.drawSprite, Canvas.drawRow_eq]
  rfl

theorem mem_spritePlaces (s : State) (n x0 y0 : Nat) (r : Fin 32) (c : Fin 64) :
    (r, c) ∈ spritePlaces s.mem s.i.toNat n x0 y0 ↔ s.spriteSets n x0 y0 r c := by
  simp only [spritePlaces, rowPlaces, List.mem_flatMap, List.mem_range, List.mem_map, List.mem_filter, Prod.mk.injEq,
    State.spriteSets, Fin.ext_iff, Fin.val_ofNat]
  constructor
  · rintro ⟨a, ha, b, ⟨hb, hbit⟩, hr, hc⟩
    exact ⟨a, ha, b, hb, hr, hc, hbit⟩
  · rintro ⟨a, ha, b, hb, hr, hc, hbit⟩
    exact ⟨a, ha, b, ⟨hb, hbit⟩, hr, hc⟩

/-- No place is drawn twice: a sprite is less than 32 high and 8 wide (R192). -/
theorem spritePlaces_nodup (m : Memory) (base n x0 y0 : Nat) (h : n < 32) : (spritePlaces m base n x0 y0).Nodup := by
  rw [spritePlaces, List.nodup_flatMap]
  constructor
  · intro r _
    rw [rowPlaces]
    refine (List.nodup_range.filter _).map_on ?_
    intro a ha b hb hab
    simp only [Prod.mk.injEq, Fin.ext_iff, Fin.val_ofNat, true_and, List.mem_filter, List.mem_range] at *
    omega
  · refine (List.pairwise_lt_range (n := n)).imp_of_mem ?_
    intro a b ha hb hab p hp hq
    simp only [rowPlaces, List.mem_map, List.mem_range] at *
    obtain ⟨_, _, rfl⟩ := hp
    obtain ⟨_, _, hq⟩ := hq
    simp only [Prod.mk.injEq, Fin.ext_iff, Fin.val_ofNat] at hq
    omega

/-- A draw inverts exactly the pixels that the sprite sets (R190, R192). -/
theorem State.pixel_drawAt (s : State) (vx vy : Byte) {n : Nat} (h : n < 32) (r : Fin 32) (c : Fin 64) :
    pixel (s.drawAt vx vy n).disp r c ≠ pixel s.disp r c ↔
      s.spriteSets n (vx.toNat % 64) (vy.toNat % 32) r c := by
  rw [← mem_spritePlaces]
  show pixel (Canvas.drawSprite _ _ _ _ _ _).disp r c ≠ _ ↔ _
  rw [Canvas.drawSprite_eq, Canvas.pixel_drawAll _ (spritePlaces_nodup _ _ _ _ _ h)]
  by_cases e : (r, c) ∈ spritePlaces s.mem s.i.toNat n (vx.toNat % 64) (vy.toNat % 32) <;> simp [e]

/-- A draw leaves in VF whether one of the pixels that the sprite sets was on, and writes no other register. -/
theorem State.readV_drawAt (s : State) (vx vy : Byte) {n : Nat} (h : n < 32) :
    ∃ b : Bool, (∀ r, (s.drawAt vx vy n).readV r = if r = VF then flagByte b else s.readV r) ∧
      (b = true ↔ ∃ r c, s.spriteSets n (vx.toNat % 64) (vy.toNat % 32) r c ∧ pixel s.disp r c = true) := by
  refine ⟨_, fun r => State.readV_writeFlag _ r _, ?_⟩
  rw [Canvas.drawSprite_eq, Canvas.hit_drawAll _ (spritePlaces_nodup _ _ _ _ _ h)]
  simp only [Bool.false_or, List.any_eq_true, Prod.exists, mem_spritePlaces]

end Sys2Proof.Machine
end

