-- ==== Sys2Proof/Laws/Exec.lean ====
section
/-! SUPPORT. For the instructions with more than one path: what `exec` can answer, said once. The others answer the one
next state their meaning writes, by rfl. -/

namespace Sys2Proof.Machine

variable (s : State)

theorem exec_ret_empty (h : s.sp = 0) :
    exec .ret s = .next { s with fault := some ⟨.stackUnderflow, (s.pc - 2).toNat, s.pc - 2⟩ } := dif_pos h

theorem exec_ret_pop (h : s.sp ≠ 0) : exec .ret s = .next (s.popAndJump (s.sp.pred h)) := dif_neg h

theorem exec_call_full (nnn : Addr12) (h : ¬ s.sp.val < 16) :
    exec (.call nnn) s = .next { s with fault := some ⟨.stackOverflow, (s.pc - 2).toNat, s.pc - 2⟩ } := dif_neg h

theorem exec_call_push (nnn : Addr12) (h : s.sp.val < 16) :
    exec (.call nnn) s = .next (s.pushAndJump ⟨s.sp.val, h⟩ (addrOperand nnn)) := dif_pos h

theorem exec_skp_beyond (x : Reg) (h : 15 < (s.readV x).toNat) :
    exec (.skp x) s = .next { s with fault := some ⟨.keyIndexOob, (s.readV x).toNat, s.pc - 2⟩ } := by
  rw [exec, execSkp, State.withKey_beyond h, State.raise_eq]

theorem exec_skp_key (x : Reg) (h : (s.readV x).toNat < 16) :
    exec (.skp x) s = .next (s.skipIf s.key[(s.readV x).toNat]) := by
  rw [exec, execSkp, State.withKey_of_lt h]; rfl

theorem exec_sknp_beyond (x : Reg) (h : 15 < (s.readV x).toNat) :
    exec (.sknp x) s = .next { s with fault := some ⟨.keyIndexOob, (s.readV x).toNat, s.pc - 2⟩ } := by
  rw [exec, execSknp, State.withKey_beyond h, State.raise_eq]

theorem exec_sknp_key (x : Reg) (h : (s.readV x).toNat < 16) :
    exec (.sknp x) s = .next (s.skipIf (!s.key[(s.readV x).toNat])) := by
  rw [exec, execSknp, State.withKey_of_lt h]; rfl

theorem exec_ldVxK_down (x : Reg) {k : Fin 16} (h : s.leastKey = some k) :
    exec (.ldVxK x) s = .next (s.writeV x (keyByte k)) := by rw [exec, execLdVxK, h]

theorem exec_ldVxK_up (x : Reg) (h : s.leastKey = none) : exec (.ldVxK x) s = .next (s.setPc (s.pc - 2)) := by
  rw [exec, execLdVxK, h]

theorem exec_drw_beyond (x y : Reg) (n : Nat) (h : 1 ≤ n ∧ 4095 < s.base + n - 1) :
    exec (.drw x y n) s = .next { s with fault := some ⟨.memOob, max s.base 4096, s.pc - 2⟩ } := if_pos h

theorem exec_drw_fits (x y : Reg) (n : Nat) (h : ¬(1 ≤ n ∧ 4095 < s.base + n - 1)) :
    exec (.drw x y n) s = .next (s.drawAt (s.readV x) (s.readV y) n) := if_neg h

theorem exec_ldBVx_beyond (x : Reg) (h : 4095 < s.base + 2) :
    exec (.ldBVx x) s = .next { s with fault := some ⟨.memOob, max s.base 4096, s.pc - 2⟩ } := by
  rw [exec, execLdBVx, State.checked_beyond ⟨by decide, h⟩, State.raise_eq]

theorem exec_ldBVx_fits (x : Reg) (h : ¬ 4095 < s.base + 2) :
    exec (.ldBVx x) s = .next (s.storeBytes s.base (decimalDigits (s.readV x))) := by
  rw [exec, execLdBVx, State.checked_fits fun h' => h h'.2]

theorem exec_ldMemVx_beyond (x : Reg) (h : 1 ≤ x.val ∧ 4095 < s.base + x.val - 1) :
    exec (.ldMemVx x) s = .next { s with fault := some ⟨.memOob, max s.base 4096, s.pc - 2⟩ } := if_pos h

theorem exec_ldMemVx_fits (x : Reg) (h : ¬(1 ≤ x.val ∧ 4095 < s.base + x.val - 1)) :
    exec (.ldMemVx x) s = .next (s.storeBytes s.base (s.lowRegs x.val)) := if_neg h

theorem exec_ldVxMem_beyond (x : Reg) (h : 1 ≤ x.val ∧ 4095 < s.base + x.val - 1) :
    exec (.ldVxMem x) s = .next { s with fault := some ⟨.memOob, max s.base 4096, s.pc - 2⟩ } := if_pos h

theorem exec_ldVxMem_fits (x : Reg) (h : ¬(1 ≤ x.val ∧ 4095 < s.base + x.val - 1)) :
    exec (.ldVxMem x) s = .next (s.loadLowRegs s.base x.val) := if_neg h

/-! ### The operands of the storing forms -/

@[simp] theorem decimalDigits_length (b : Byte) : (decimalDigits b).length = 3 := rfl

@[simp] theorem State.lowRegs_length (n : Nat) (h : n ≤ 16) : (s.lowRegs n).length = n := by
  simp [State.lowRegs, h]

theorem State.lowRegs_getD (n : Nat) (r : Reg) (h : r.val < n) : (s.lowRegs n).getD r.val 0 = s.readV r := by
  simp [State.lowRegs, h, State.readV]

end Sys2Proof.Machine
end

