-- ==== Sys2Proof/Laws/PerInstr.lean ====
section
/-! SUPPORT. For each instruction: the word the encoder gives it lies in its own row of the opcode map (R96). -/

namespace Sys2Proof.Laws.EncodesItsRow

/-- The instruction's word has the match bits of its row under the row's mask. -/
def Statement (i : Instr) : Prop := encode i &&& i.row.mask = i.row.matchBits

theorem cls : Statement (.cls) := rfl
theorem ret : Statement (.ret) := rfl
theorem jp (nnn : Addr12) : Statement (.jp nnn) := wordA_mask _ _
theorem call (nnn : Addr12) : Statement (.call nnn) := wordA_mask _ _
theorem seVxKk (x : Reg) (kk : Byte) : Statement (.seVxKk x kk) := wordA_mask _ _
theorem sneVxKk (x : Reg) (kk : Byte) : Statement (.sneVxKk x kk) := wordA_mask _ _
theorem seVxVy (x y : Reg) (z : Nibble) : Statement (.seVxVy x y z) := wordA_mask _ _
theorem ldVxKk (x : Reg) (kk : Byte) : Statement (.ldVxKk x kk) := wordA_mask _ _
theorem addVxKk (x : Reg) (kk : Byte) : Statement (.addVxKk x kk) := wordA_mask _ _
theorem ldVxVy (x y : Reg) : Statement (.ldVxVy x y) := wordXYN_mask _ _ _ _
theorem or (x y : Reg) : Statement (.or x y) := wordXYN_mask _ _ _ _
theorem and (x y : Reg) : Statement (.and x y) := wordXYN_mask _ _ _ _
theorem xor (x y : Reg) : Statement (.xor x y) := wordXYN_mask _ _ _ _
theorem addVxVy (x y : Reg) : Statement (.addVxVy x y) := wordXYN_mask _ _ _ _
theorem sub (x y : Reg) : Statement (.sub x y) := wordXYN_mask _ _ _ _
theorem shr (x : Reg) (z : Nibble) : Statement (.shr x z) := wordXYN_mask _ _ _ _
theorem subn (x y : Reg) : Statement (.subn x y) := wordXYN_mask _ _ _ _
theorem shl (x : Reg) (z : Nibble) : Statement (.shl x z) := wordXYN_mask _ _ _ _
theorem sneVxVy (x y : Reg) (z : Nibble) : Statement (.sneVxVy x y z) := wordA_mask _ _
theorem ldINnn (nnn : Addr12) : Statement (.ldINnn nnn) := wordA_mask _ _
theorem jpV0 (nnn : Addr12) : Statement (.jpV0 nnn) := wordA_mask _ _
theorem rnd (x : Reg) (kk : Byte) : Statement (.rnd x kk) := wordA_mask _ _
theorem drw (x y : Reg) (n : Nat) : Statement (.drw x y n) := wordA_mask _ _
theorem skp (x : Reg) : Statement (.skp x) := wordXK_mask _ _ _
theorem sknp (x : Reg) : Statement (.sknp x) := wordXK_mask _ _ _
theorem ldVxDt (x : Reg) : Statement (.ldVxDt x) := wordXK_mask _ _ _
theorem ldVxK (x : Reg) : Statement (.ldVxK x) := wordXK_mask _ _ _
theorem ldDtVx (x : Reg) : Statement (.ldDtVx x) := wordXK_mask _ _ _
theorem ldStVx (x : Reg) : Statement (.ldStVx x) := wordXK_mask _ _ _
theorem addIVx (x : Reg) : Statement (.addIVx x) := wordXK_mask _ _ _
theorem ldFVx (x : Reg) : Statement (.ldFVx x) := wordXK_mask _ _ _
theorem ldBVx (x : Reg) : Statement (.ldBVx x) := wordXK_mask _ _ _
theorem ldMemVx (x : Reg) : Statement (.ldMemVx x) := wordXK_mask _ _ _
theorem ldVxMem (x : Reg) : Statement (.ldVxMem x) := wordXK_mask _ _ _

end Sys2Proof.Laws.EncodesItsRow
end

