-- ==== Sys2Proof/Laws/Step.lean ====
section
/-! SUPPORT. What one cycle can do, said once. -/

namespace Sys2Proof.Machine

theorem State.fetchFails_iff {s : State} : s.fetchFails = true ↔ 0xFFE < s.pc.toNat := by simp [State.fetchFails]

theorem State.fetchWord_eq (s : State) :
    s.fetchWord = wordOfBytes (s.mem.read s.pc.toNat) (s.mem.read (s.pc.toNat + 1)) := rfl

theorem step_of_faulted {s : State} (h : s.fault.isSome) : step s = .next s := if_pos h

theorem step_of_fetch_outside {s : State} (h : s.fault = none) (hp : 0xFFE < s.pc.toNat) :
    step s = .next (s.latch .fetchOob s.pc.toNat s.pc) := by
  rw [step, State.cycle, if_neg (by simp [h]), if_pos (State.fetchFails_iff.2 hp)]

theorem step_of_fetched {s : State} (h : s.fault = none) (hp : s.pc.toNat ≤ 0xFFE) :
    step s = s.execute (decodeWord s.fetchWord) := by
  rw [step, State.cycle, if_neg (by simp [h]), if_neg (by rw [State.fetchFails_iff]; omega)]
  rfl

theorem step_of_unknown {s : State} (h : s.fault = none) (hp : s.pc.toNat ≤ 0xFFE) (hd : decodeWord s.fetchWord = none) :
    step s = .next s.fetched.tick := by
  rw [step_of_fetched h hp, hd]
  rfl

theorem step_of_exec {s t : State} {i : Instr} (h : s.fault = none) (hp : s.pc.toNat ≤ 0xFFE)
    (hd : decodeWord s.fetchWord = some i) (he : exec i s.fetched = .next t) : step s = .next (s.commit t) := by
  rw [step_of_fetched h hp, hd]
  simp only [State.execute, he]

/-- Everything one cycle can do: nothing on a faulted core; a fetch fault; an unknown opcode; or an instruction. -/
theorem step_cases {s t : State} (h : step s = .next t) :
    (s.fault.isSome ∧ t = s) ∨
    (s.fault = none ∧ 0xFFE < s.pc.toNat ∧ t = s.latch .fetchOob s.pc.toNat s.pc) ∨
    (s.fault = none ∧ s.pc.toNat ≤ 0xFFE ∧ decodeWord s.fetchWord = none ∧ t = s.fetched.tick) ∨
    (s.fault = none ∧ s.pc.toNat ≤ 0xFFE ∧ ∃ i u, decodeWord s.fetchWord = some i ∧ exec i s.fetched = .next u ∧
      t = s.commit u) := by
  cases hf : s.fault with
  | some r =>
    rw [step_of_faulted (by simp [hf]), Host.Outcome.next.injEq] at h
    exact .inl ⟨rfl, h.symm⟩
  | none =>
    rcases Nat.lt_or_ge 0xFFE s.pc.toNat with hp | hp
    · rw [step_of_fetch_outside hf hp, Host.Outcome.next.injEq] at h
      exact .inr (.inl ⟨rfl, hp, h.symm⟩)
    · cases hd : decodeWord s.fetchWord with
      | none =>
        rw [step_of_unknown hf hp hd, Host.Outcome.next.injEq] at h
        exact .inr (.inr (.inl ⟨rfl, hp, rfl, h.symm⟩))
      | some i =>
        rw [step_of_fetched hf hp, hd, State.execute] at h
        cases he : exec i s.fetched with
        | next u =>
          rw [he, Host.Outcome.next.injEq] at h
          exact .inr (.inr (.inr ⟨rfl, hp, i, u, rfl, he, h.symm⟩))
        | fault r => simp [he] at h
        | refused r => simp [he] at h

end Sys2Proof.Machine
end

