-- ==== Sys2Proof/Tests/Slice0.lean ====
section
/-! SUPPORT. The model's own tests. Expected results are the spec's: the encodings of 30_encoding.md R96 and the vectors
of spec/95_test_vectors.md (its names S, T and P). After them, a witness for the hypotheses of each statement. -/

namespace Sys2Proof.Tests

open Sys2Proof.Machine

/-! ### Helpers -/

/-- The state after one cycle. -/
def cycled (s : State) : State :=
  match step s with
  | .next t => t
  | .fault _ => s
  | .refused _ => s

/-- The state in which the next cycle fetches this word. -/
def placed (w : Nat) (s : State) : State := s.withFetchWord 16 w

/-- The state after one cycle with this word at `pc`. -/
def run1 (w : Nat) (s : State) : State := cycled (placed w s)

/-- Switch on the pixel. -/
def lit (r : Fin 32) (c : Fin 64) (s : State) : State := s.setDisp (togglePixel s.disp r c)

/-- Press the key. -/
def press (k : Fin 16) (s : State) : State := s.setKey (s.key.set k true)

/-- The state after reset. -/
abbrev R : State := State.reset

/-! ### WellFormed: the check refuses a row count that has no encoding (R94) -/

theorem test_wellFormed_refuses_16_rows : (Instr.drw 0 0 16).wellFormed = false := by decide
theorem test_wellFormed_admits_15_rows : (Instr.drw 15 15 15).wellFormed = true := by decide

/-! ### Decoding: every row of R96, the word written out from its pattern -/

theorem test_decode_family0 : decodeWord 0x00E0 = some .cls ∧ decodeWord 0x00EE = some .ret := by decide
theorem test_decode_jp : decodeWord 0b0001_1010_1011_1100 = some (.jp 0xABC) := by decide
theorem test_decode_call : decodeWord 0b0010_0010_0000_1100 = some (.call 0x20C) := by decide
theorem test_decode_seVxKk : decodeWord 0b0011_1010_0101_1100 = some (.seVxKk 0xA 0x5C) := by decide
theorem test_decode_sneVxKk : decodeWord 0b0100_0011_0001_0001 = some (.sneVxKk 3 0x11) := by decide
theorem test_decode_seVxVy : decodeWord 0b0101_0001_0010_0000 = some (.seVxVy 1 2 0) := by decide
theorem test_decode_ldVxKk : decodeWord 0b0110_1111_1010_1011 = some (.ldVxKk 15 0xAB) := by decide
theorem test_decode_addVxKk : decodeWord 0b0111_0001_0000_0101 = some (.addVxKk 1 5) := by decide
theorem test_decode_ldVxVy : decodeWord 0b1000_1010_0101_0000 = some (.ldVxVy 0xA 5) := by decide
theorem test_decode_logic :
    decodeWord 0b1000_1010_0101_0001 = some (.or 0xA 5) ∧ decodeWord 0b1000_1010_0101_0010 = some (.and 0xA 5) ∧
    decodeWord 0b1000_1010_0101_0011 = some (.xor 0xA 5) := by decide
theorem test_decode_arith :
    decodeWord 0b1000_1010_0101_0100 = some (.addVxVy 0xA 5) ∧ decodeWord 0b1000_1010_0101_0101 = some (.sub 0xA 5) ∧
    decodeWord 0b1000_1010_0101_0111 = some (.subn 0xA 5) := by decide
theorem test_decode_shifts :
    decodeWord 0b1000_0010_0011_0110 = some (.shr 2 3) ∧ decodeWord 0b1000_0010_0000_1110 = some (.shl 2 0) := by decide
theorem test_decode_sneVxVy : decodeWord 0b1001_0001_0010_0101 = some (.sneVxVy 1 2 5) := by decide
theorem test_decode_ldINnn : decodeWord 0b1010_0011_0000_0000 = some (.ldINnn 0x300) := by decide
theorem test_decode_jpV0 : decodeWord 0b1011_1111_1111_1110 = some (.jpV0 0xFFE) := by decide
theorem test_decode_rnd : decodeWord 0b1100_0001_0000_1111 = some (.rnd 1 0x0F) := by decide
theorem test_decode_drw : decodeWord 0b1101_0001_0010_0101 = some (.drw 1 2 5) := by decide
theorem test_decode_keys :
    decodeWord 0b1110_0101_1001_1110 = some (.skp 5) ∧ decodeWord 0b1110_0101_1010_0001 = some (.sknp 5) := by decide
theorem test_decode_timers :
    decodeWord 0b1111_0100_0000_0111 = some (.ldVxDt 4) ∧ decodeWord 0b1111_0100_0001_0101 = some (.ldDtVx 4) ∧
    decodeWord 0b1111_0100_0001_1000 = some (.ldStVx 4) := by decide
theorem test_decode_ldVxK : decodeWord 0b1111_0101_0000_1010 = some (.ldVxK 5) := by decide
theorem test_decode_index :
    decodeWord 0b1111_0010_0001_1110 = some (.addIVx 2) ∧ decodeWord 0b1111_0010_0010_1001 = some (.ldFVx 2) := by decide
theorem test_decode_memory :
    decodeWord 0b1111_0010_0011_0011 = some (.ldBVx 2) ∧ decodeWord 0b1111_0010_0101_0101 = some (.ldMemVx 2) ∧
    decodeWord 0b1111_0010_0110_0101 = some (.ldVxMem 2) := by decide

/-- T40.3: unknown words. -/
theorem test_decode_unknown :
    [0x0000, 0x00E1, 0x0123, 0x8128, 0x812F, 0xE19F, 0xE100, 0xF1FF, 0xF175, 0xF100].map
      (fun w : Word => decodeWord w) = List.replicate 10 none := by decide

/-- R104, R63: the first of two bytes is the high one; what follows is left, and half a word is no word. -/
theorem test_decode_bytes :
    decode [0x60, 0x05, 0x61] = .instr (.ldVxKk 0 5) [0x61] ∧ decode [0x00, 0x00] = .unknownOpcode 0 [] ∧
    decode [0x60] = .truncated := by decide

theorem test_decodeTableWord : decodeTableWord 16 0x8014 = some (.addVxVy 0 1) ∧ decodeTableWord 16 0 = none := by decide

/-! ### The cycle (T40) -/

theorem test_T40_1 : (run1 0x612A R).readV 1 = 0x2A ∧ (run1 0x612A R).pc = 0x202 := by decide

theorem test_T40_2 :
    let t := run1 0x0000 ((R.setDT 3).setST 1)
    t.pc = 0x202 ∧ t.dt = 2 ∧ t.st = 0 ∧ R.unknownOpcode = some ⟨0, 0x200⟩ := by decide

theorem test_T40_8 :
    let t := run1 0x6001 (R.setPc 0xFFE)
    t.readV 0 = 1 ∧ t.pc = 0x1000 ∧ t.fault = none ∧ (cycled t).fault = some ⟨.fetchOob, 0x1000, 0x1000⟩ := by decide

theorem test_T40_9 :
    let t := cycled ((R.setPc 0xFFF).setDT 5)
    t.fault = some ⟨.fetchOob, 0xFFF, 0xFFF⟩ ∧ t.pc = 0xFFF ∧ t.dt = 5 := by decide

/-! ### Families 0x0 to 0x2 (T41) -/

theorem test_T41_1 :
    let t := run1 0x00E0 ((lit 31 63 (lit 5 5 R)).writeV VF 1)
    t.disp = blankDisplay ∧ t.readV VF = 1 ∧ t.pc = 0x202 := by decide

theorem test_T41_2 :
    let t := run1 0x00EE (((R.setPc 0x20C).setSp 1).setStack 0 0x206)
    t.sp = 0 ∧ t.pc = 0x206 ∧ t.stack[0] = 0x206 := by decide

theorem test_T41_3 :
    let t := run1 0x00EE R
    t.fault = some ⟨.stackUnderflow, 0x200, 0x200⟩ ∧ t.sp = 0 ∧ t.pc = 0x200 := by decide

theorem test_T41_5 : (run1 0x1204 (R.setPc 0x208)).pc = 0x204 := by decide

theorem test_T41_8 :
    let t := run1 0x220C (R.setPc 0x204)
    t.stack[0] = 0x206 ∧ t.sp = 1 ∧ t.pc = 0x20C := by decide

theorem test_T41_9_last :
    let t := run1 0x2200 (R.setSp 16)
    t.fault = some ⟨.stackOverflow, 0x200, 0x200⟩ ∧ t.sp = 16 ∧ t.pc = 0x200 := by decide

/-! ### Families 0x3 to 0x7 (T42) -/

theorem test_T42_1_2 :
    (run1 0x3000 (R.setPc 0x206)).pc = 0x20A ∧ (run1 0x3000 ((R.setPc 0x206).writeV 0 2)).pc = 0x208 := by decide

theorem test_T42_5_6 :
    (run1 0x4311 ((R.setPc 0x300).writeV 3 0x10)).pc = 0x304 ∧
    (run1 0x4310 ((R.setPc 0x300).writeV 3 0x10)).pc = 0x302 := by decide

theorem test_T42_8_9 :
    (run1 0x5120 ((R.writeV 1 7).writeV 2 8)).pc = 0x202 ∧ (run1 0x512B ((R.writeV 1 7).writeV 2 7)).pc = 0x204 := by
  decide

theorem test_T42_12 : (run1 0x6FAB (R.writeV VF 1)).readV VF = 0xAB := by decide

theorem test_T42_14_15 :
    let t := run1 0x7001 (R.writeV 0 255)
    let u := run1 0x70FF (R.writeV VF 1)
    (t.readV 0, t.readV VF) = (0, 0) ∧ (u.readV 0, u.readV VF) = (255, 1) := by decide

/-! ### Family 0x8 (T43) -/

theorem test_T43_1 : (run1 0x8120 (R.writeV 2 0x3C)).readV 1 = 0x3C := by decide

theorem test_T43_2 :
    let t := run1 0x8011 (((R.writeV 0 0xF0).writeV 1 0x0F).writeV VF 1)
    (t.readV 0, t.readV VF) = (0xFF, 1) := by decide

theorem test_T43_3 :
    let t := run1 0x8012 (((R.writeV 0 0xF0).writeV 1 0x3C).writeV VF 1)
    (t.readV 0, t.readV VF) = (0x30, 1) := by decide

theorem test_T43_4 :
    let t := run1 0x8013 (((R.writeV 0 0xF0).writeV 1 0x3C).writeV VF 1)
    (t.readV 0, t.readV VF) = (0xCC, 1) := by decide

theorem test_T43_6 :
    let t := run1 0x8124 ((R.writeV 1 255).writeV 2 1)
    (t.readV 1, t.readV VF) = (0, 1) := by decide

theorem test_T43_10 : (run1 0x8F14 ((R.writeV VF 200).writeV 1 100)).readV VF = 1 := by decide

theorem test_T43_18 : (run1 0x8F15 ((R.writeV VF 5).writeV 1 3)).readV VF = 254 := by decide

theorem test_T43_20 :
    let t := run1 0x81F5 ((R.writeV 1 10).writeV VF 3)
    (t.readV 1, t.readV VF) = (9, 1) := by decide

theorem test_T43_26 :
    let t := run1 0x8236 ((R.writeV 2 6).writeV 3 0xFF)
    (t.readV 2, t.readV 3, t.readV VF) = (3, 0xFF, 0) := by decide

theorem test_T43_27 : (run1 0x8F06 (R.writeV VF 0xFF)).readV VF = 0 := by decide

theorem test_T43_31 : (run1 0x8F17 ((R.writeV VF 2).writeV 1 9)).readV VF = 8 := by decide

theorem test_T43_33 :
    let t := run1 0x81F7 ((R.writeV 1 3).writeV VF 10)
    (t.readV 1, t.readV VF) = (254, 1) := by decide

theorem test_T43_36 :
    let t := run1 0x820E (R.writeV 2 0x81)
    (t.readV 2, t.readV VF) = (0x02, 1) := by decide

theorem test_T43_39 : (run1 0x8F0E (R.writeV VF 0x80)).readV VF = 2 := by decide

/-! ### Families 0x9 to 0xC (T44) -/

theorem test_T44_2_3 :
    (run1 0x9120 ((R.writeV 1 7).writeV 2 7)).pc = 0x202 ∧ (run1 0x9125 ((R.writeV 1 7).writeV 2 8)).pc = 0x204 := by
  decide

theorem test_T44_6 : (run1 0xAFFF (R.setI 0x1234)).i = 0x0FFF := by decide

theorem test_T44_8 : (run1 0xBFFF (R.writeV 0 255)).pc = 0x10FE ∧ (run1 0xB300 (R.writeV 3 9)).pc = 0x300 := by decide

/-- T44.10 for whatever byte the port presents, and T44.11. -/
theorem test_T44_10 :
    (run1 0xC10F R).readV 1 = 0x0F &&& Config.rnd 0 ∧ (run1 0xC100 (R.writeV 1 9)).readV 1 = 0x00 &&& Config.rnd 0 ∧
    (run1 0xC10F R).draws = 1 := ⟨rfl, rfl, rfl⟩

/-! ### Family 0xD (T45) -/

/-- Sprite A at 0x214. -/
def spriteA : State := ((R.storeBytes 0x214 [0xFF, 0x81]).setI 0x214).writeV 1 62 |>.writeV 2 31

theorem test_T45_1 :
    let t := run1 0xD122 spriteA
    t.disp = (lit 31 62 (lit 31 63 (lit 31 0 (lit 31 1 (lit 31 2 (lit 31 3 (lit 31 4 (lit 31 5
      (lit 0 62 (lit 0 5 R)))))))))).disp ∧ t.readV VF = 0 ∧ t.i = 0x214 := by decide

theorem test_T45_5 :
    let t := run1 0xD011 (lit 0 1 (lit 9 9 ((R.storeBytes 0x300 [0xC0]).setI 0x300)))
    t.disp = (lit 0 0 (lit 9 9 R)).disp ∧ t.readV VF = 1 := by decide

theorem test_T45_10 :
    let t := run1 0xD002 ((R.storeBytes 0xFFF [0x01]).setI 0xFFF |>.writeV VF 1)
    t.fault = some ⟨.memOob, 0x1000, 0x200⟩ ∧ t.disp = blankDisplay ∧ t.readV VF = 1 ∧ t.pc = 0x200 := by decide

/-! ### Family 0xE (T46) -/

theorem test_T46_1_2 :
    (run1 0xE09E (press 3 ((R.setPc 0x202).writeV 0 3))).pc = 0x206 ∧
    (run1 0xE09E ((R.setPc 0x202).writeV 0 3)).pc = 0x204 := by decide

theorem test_T46_5 : (run1 0xE09E (press 0 (R.writeV 0 16))).fault = some ⟨.keyIndexOob, 16, 0x200⟩ := by decide

theorem test_T46_3_4 :
    (run1 0xE5A1 ((R.setPc 0x300).writeV 5 10)).pc = 0x304 ∧
    (run1 0xE5A1 (press 10 ((R.setPc 0x300).writeV 5 10))).pc = 0x302 := by decide

theorem test_T46_6 : (run1 0xE0A1 (press 3 (R.writeV 0 0x13))).fault = some ⟨.keyIndexOob, 0x13, 0x200⟩ := by decide

/-! ### Family 0xF (T47) -/

theorem test_T47_1 :
    let t := run1 0xF407 (R.setDT 9)
    t.readV 4 = 9 ∧ t.dt = 8 := by decide

theorem test_T47_3 :
    let t := run1 0xF00A R
    t.pc = 0x200 ∧ t.readV 0 = 0 := by decide

theorem test_T47_4 :
    let t := run1 0xF00A (press 3 (press 7 R))
    t.pc = 0x202 ∧ t.readV 0 = 3 := by decide

theorem test_T47_8_10 : (run1 0xF315 (R.writeV 3 10)).dt = 9 ∧ (run1 0xF315 (R.setDT 7)).dt = 0 := by decide

theorem test_T47_11 :
    let t := run1 0xF318 (R.writeV 3 255)
    t.st = 254 ∧ t.dt = 0 := by decide

theorem test_T47_14 :
    let t := run1 0xF21E ((R.setI 0xFF80).writeV 2 0xFF)
    t.i = 0x007F ∧ t.readV VF = 0 := by decide

theorem test_T47_15_17 : (run1 0xF029 (R.writeV 0 5)).i = 0x069 ∧ (run1 0xF029 (R.writeV 0 255)).i = 0x54B := by decide

theorem test_T47_18 :
    let t := run1 0xF033 ((R.setI 0x300).writeV 0 254)
    (t.mem.read 0x300, t.mem.read 0x301, t.mem.read 0x302, t.i) = (2, 5, 4, 0x300) := by decide

theorem test_T47_21 :
    let t := run1 0xF033 ((R.setI 0xFFE).writeV 0 255)
    t.fault = some ⟨.memOob, 0x1000, 0x200⟩ ∧ t.mem.read 0xFFE = 0 ∧ t.mem.read 0xFFF = 0 := by decide

theorem test_T47_23 :
    let t := run1 0xF155 (((R.setI 0x310).writeV 0 0x0B).writeV 1 5)
    (t.mem.read 0x310, t.mem.read 0x311, t.i) = (0x0B, 0, 0x310) := by decide

theorem test_T47_26 :
    let t := run1 0xF255 (((R.setI 0xFFF).writeV 0 1).writeV 1 2)
    t.fault = some ⟨.memOob, 0x1000, 0x200⟩ ∧ t.mem.read 0xFFF = 0 := by decide

theorem test_T47_28 :
    let t := run1 0xF365 (((R.storeBytes 0x300 [2, 5, 4, 9]).setI 0x300).writeV 3 0x77)
    (t.readV 0, t.readV 1, t.readV 2, t.readV 3) = (2, 5, 4, 0x77) := by decide

theorem test_T47_34 : (run1 0xF165 (R.setI 0x050)).readV 0 = 0xF0 := by decide

/-! ### The parameters FONT and RND_SET (R6) -/

/-- T47.34 with another FONT: glyph 0 is drawn from the argument. -/
theorem test_font_is_an_argument :
    (run1 0xF165 ((State.resetWith ⟨Vector.replicate 80 0xAA, RndSet.full⟩).setI 0x050)).readV 0 = 0xAA := by decide

/-- T44.12, T44.13: 255 is in the recommended RND_SET and not in the source's, which has 254. -/
theorem test_rndSet :
    RndSet.full.admits 255 = true ∧ RndSet.source.admits 255 = false ∧ RndSet.source.admits 254 = true ∧
    RndSet.source.present 254 = 254 ∧ RndSet.source.present 255 ≠ 255 := by decide

/-! ### Memory keeps one canonical form: writing the reset contents back unlists the address -/

theorem test_store_reset_byte :
    ((R.storeBytes 0x300 [1, 2]).storeBytes 0x300 [0, 0]).mem = [] ∧
    (R.storeBytes 0x050 [0xF0, 0x91]).mem = [(0x051, 0x91)] := by decide

/-! ### Witnesses: concrete states and operands that meet the hypotheses of each statement, clause by clause -/

/-- The invariant of a state whose latch is clear, from its parts. -/
theorem inv_of {s : State} (hm : s.mem.wf) (hp : s.pc.toNat ≤ 0x10FE) (hs : ∀ j : Fin 16, s.stack[j].toNat ≤ 0x1000)
    (hf : s.fault = none) : s.Inv :=
  ⟨hm, hp, hs, fun r h => by simp [hf] at h, fun r h => by simp [hf] at h⟩

theorem witness_EveryCycleKeepsTheInvariant :
    (placed 0x2345 R).Inv ∧ step (placed 0x2345 R) = .next (cycled (placed 0x2345 R)) ∧
    (placed 0xF133 ((R.setI 0x300).writeV 1 254)).Inv ∧
    step (placed 0xF133 ((R.setI 0x300).writeV 1 254)) = .next (cycled (placed 0xF133 ((R.setI 0x300).writeV 1 254))) :=
  ⟨inv_of (by decide) (by decide) (by decide) rfl, rfl, inv_of (by decide) (by decide) (by decide) rfl, rfl⟩

theorem witness_EveryHostMoveKeepsTheInvariant :
    (Session.start .default).core.Inv ∧ (∃ h, applyMove .reset (.start .default) = .next h) ∧
    (∃ h, applyMove (.load [0x60, 0x05]) (.start .default) = .next h) ∧ (∃ h, applyMove (.writeKey (R.key.set 3 true)) (.start .default) = .next h) ∧
    ∃ h, applyMove .cycle (.start .default) = .next h :=
  ⟨inv_of (by decide) (by decide) (by decide) rfl, ⟨_, rfl⟩, ⟨_, rfl⟩, ⟨_, rfl⟩, ⟨_, rfl⟩⟩

theorem witness_EncodedInstructionDecodes : (Instr.drw 15 0 15).wellFormed = true ∧ (Instr.shl 15 15).wellFormed = true := by
  decide

theorem witness_DecodedWordReencodes : decodeWord 0xD12F = some (.drw 1 2 15) := by decide

theorem witness_DecoderFollowsTheOpcodeMap :
    decodeWord 0x812E = some (.shl 1 2) ∧ (Instr.shl 1 2).row ∈ opcodeMap ∧ decodeWord 0x812F = none := by decide

theorem witness_UnknownWordsAreTheListedOnes :
    [0x0FFF, 0x00E1, 0x8FF8, 0xE19F, 0xFF66].map (fun w : Word => decodeWord w) = List.replicate 5 none ∧
    [0x1000, 0x5FFF, 0x9FFF, 0xDFF0].all (fun w : Word => (decodeWord w).isSome) = true := by decide

theorem witness_CycleRunsTheDecodedInstruction :
    R.fault = none ∧ (placed 0x6005 R).pc.toNat ≤ 0xFFE ∧
    decode [(placed 0x6005 R).mem.read 0x200, (placed 0x6005 R).mem.read 0x201] = .instr (.ldVxKk 0 5) [] ∧
    (∃ t, exec (.ldVxKk 0 5) (placed 0x6005 R).fetched = .next t ∧ t.fault = none) ∧
    decode [(placed 0x00EE R).mem.read 0x200, (placed 0x00EE R).mem.read 0x201] = .instr .ret [] ∧
    ∃ t, exec .ret (placed 0x00EE R).fetched = .next t ∧ t.fault ≠ none :=
  ⟨rfl, by decide, by decide, ⟨_, rfl, rfl⟩, by decide, ⟨_, rfl, by decide⟩⟩

theorem witness_UnknownOpcodeIsATwoByteNoOp :
    let s := R.setPc 0xFFE
    s.fault = none ∧ s.pc.toNat ≤ 0xFFE ∧ decodeWord s.fetchWord = none := by decide

theorem witness_FetchIsBoundsChecked :
    R.fault = none ∧ 0xFFE < (R.setPc 0xFFF).pc.toNat ∧ (R.setPc 0xFFE).pc.toNat ≤ 0xFFE ∧
    (cycled (R.setPc 0xFFE)).fault = none := by decide

theorem witness_FaultedCoreDoesNothing :
    let s := run1 0x00EE R
    s.fault ≠ none ∧ (∃ h, applyMove .reset ⟨s, .running⟩ = .next h) ∧ ∃ h, applyMove .cycle ⟨s, .running⟩ = .next h :=
  ⟨by decide, ⟨_, rfl⟩, ⟨_, rfl⟩⟩

theorem witness_FaultingCycleCommitsNothing :
    (placed 0x00EE R).fault = none ∧ ∃ t, step (placed 0x00EE R) = .next t ∧ t.fault = some ⟨.stackUnderflow, 0x200, 0x200⟩ :=
  ⟨rfl, _, rfl, by decide⟩

/-- Each row of the table of R261 at its first faulting value and at its last good one. -/
theorem witness_CycleFaultsExactlyByTheTable :
    (R.setPc 0xFFF).faultOfCycle = some ⟨.fetchOob, 0xFFF, 0xFFF⟩ ∧ (R.setPc 0xFFE).faultOfCycle = none ∧
    (placed 0xD001 (R.setI 4096)).faultOfCycle = some ⟨.memOob, 4096, 0x200⟩ ∧
    (placed 0xD001 (R.setI 4095)).faultOfCycle = none ∧ (placed 0xD000 (R.setI 65535)).faultOfCycle = none ∧
    (placed 0xF033 (R.setI 4094)).faultOfCycle = some ⟨.memOob, 4096, 0x200⟩ ∧
    (placed 0xF033 (R.setI 4093)).faultOfCycle = none ∧
    (placed 0xF255 (R.setI 4095)).faultOfCycle = some ⟨.memOob, 4096, 0x200⟩ ∧
    (placed 0xF155 (R.setI 4095)).faultOfCycle = none ∧
    (placed 0xF165 (R.setI 0x2345)).faultOfCycle = some ⟨.memOob, 0x2345, 0x200⟩ ∧
    (placed 0xF065 (R.setI 65535)).faultOfCycle = none ∧
    (placed 0x2200 (R.setSp 16)).faultOfCycle = some ⟨.stackOverflow, 0x200, 0x200⟩ ∧
    (placed 0x2200 (R.setSp 15)).faultOfCycle = none ∧
    (placed 0x00EE R).faultOfCycle = some ⟨.stackUnderflow, 0x200, 0x200⟩ ∧
    (placed 0x00EE (R.setSp 1)).faultOfCycle = none ∧
    (placed 0xE09E (R.writeV 0 16)).faultOfCycle = some ⟨.keyIndexOob, 16, 0x200⟩ ∧
    (placed 0xE0A1 (R.writeV 0 15)).faultOfCycle = none := by decide

theorem witness_TimersTickOncePerCompletedCycle :
    (∃ t, step (placed 0xF315 (R.writeV 3 1)) = .next t ∧ t.fault = none) ∧
    ∃ t, step ((R.setPc 0xFFF).setDT 5) = .next t ∧ t.fault ≠ none :=
  ⟨⟨_, rfl, rfl⟩, _, rfl, by decide⟩

/-- `Fx18`, and then `F315` at 0x200 and `F407` at 0x202, with `V[3] = 1`, where the tick floors. -/
theorem witness_FreshTimerIsTickedInItsOwnCycle :
    (R.fault = none ∧ decodeWord (placed 0xF318 R).fetchWord = some (.ldStVx 3) ∧
      ∃ t, step (placed 0xF318 R) = .next t ∧ t.fault = none) ∧
    let s := (R.writeV 3 1).storeBytes 0x200 [0xF3, 0x15, 0xF4, 0x07]
    s.fault = none ∧ decodeWord s.fetchWord = some (.ldDtVx 3) ∧ (cycled s).fault = none ∧
    decodeWord (cycled s).fetchWord = some (.ldVxDt 4) ∧ (cycled (cycled s)).fault = none ∧
    step s = .next (cycled s) ∧ step (cycled s) = .next (cycled (cycled s)) :=
  ⟨⟨rfl, by decide, _, rfl, by decide⟩, rfl, by decide, by decide, by decide, by decide, rfl, rfl⟩

theorem witness_PcAtTheEndOfACycle :
    (∃ t, step (placed 0xBFFF (R.writeV 0 255)) = .next t ∧ t.fault = none) ∧
    ∃ t, step (placed 0x3000 (R.setPc 0xFFE)) = .next t ∧ t.fault = none ∧ t.pc = 0x1002 :=
  ⟨⟨_, rfl, by decide⟩, _, rfl, by decide, by decide⟩

theorem witness_KeypadIsWrittenByTheHostOnly : step (placed 0xF00A R) = .next (cycled (placed 0xF00A R)) := rfl

theorem witness_SoundTimerAndOpcodeAreNotObservable : step (placed 0xF318 R) = .next (cycled (placed 0xF318 R)) := rfl

theorem witness_SafeRunsHaveSafePrefixes : safeRun (1 + 1) R ∧ ¬ safeRun 1 (placed 0x00EE R) := by
  refine ⟨⟨cycled (cycled R), rfl, show (cycled (cycled R)).fault = none by decide⟩, ?_⟩
  rintro ⟨t, ht, hg⟩
  obtain rfl : cycled (placed 0x00EE R) = t := Host.Outcome.next.inj ht
  exact absurd hg (show ¬ (cycled (placed 0x00EE R)).fault = none by decide)

theorem witness_ReturnPopsOrUnderflows :
    R.sp.val = 0 ∧ (R.setSp 1).sp.val = (0 : Fin 16).val + 1 ∧ (R.setSp 16).sp.val = (15 : Fin 16).val + 1 := by decide

theorem witness_CallPushesOrOverflows :
    (R.setSp 16).sp.val = 16 ∧ R.sp.val = (0 : Fin 16).val ∧ (R.setSp 15).sp.val = (15 : Fin 16).val := by decide

theorem witness_OnlyTheListedWritersWrite :
    instrFault (.call 0x200) (R.setSp 16) = some (.stackOverflow, 0x200) ∧ instrFault (.call 0x200) R = none := by decide

theorem witness_ReturnUndoesCall :
    (R.setSp 15).sp.val < 16 ∧ ∃ t, exec (.call 0x300) (R.setSp 15) = .next t ∧ ∃ u : State,
      u.sp = t.sp ∧ u.stack = t.stack ∧ u.pc ≠ t.pc :=
  ⟨by decide, _, rfl, (((R.setSp 15).setStack 15 0x200).setSp 16).setPc 0x400, by decide, by decide, by decide⟩

theorem witness_SkipsOnAKey :
    15 < ((R.writeV 0 16).readV 0).toNat ∧ ((R.writeV 0 15).readV 0).toNat = (15 : Fin 16).val ∧
    (R.readV 0).toNat = (0 : Fin 16).val := by decide

/-- The result that these statements give for a destination other than VF, with VF the other operand. -/
theorem witness_AddWithCarry : (1 : Reg) ≠ VF ∧ decodeWord 0x81F4 = some (.addVxVy 1 VF) := by decide
theorem witness_SubtractFlagFirst : (1 : Reg) ≠ VF ∧ decodeWord 0x81F5 = some (.sub 1 VF) := by decide
theorem witness_ReverseSubtractFlagFirst : (1 : Reg) ≠ VF ∧ decodeWord 0x81F7 = some (.subn 1 VF) := by decide
theorem witness_ShiftRightFlagFirst : (14 : Reg) ≠ VF ∧ decodeWord 0x8EF6 = some (.shr 14 15) := by decide
theorem witness_ShiftLeftFlagFirst : (14 : Reg) ≠ VF ∧ decodeWord 0x8E0E = some (.shl 14 0) := by decide

theorem witness_RandomByteIsMasked :
    (0x0F : Byte)[(7 : Fin 8)] = false ∧ R.params.rndSet.admits (Config.rnd R.draws) = true := ⟨by decide, rfl⟩

theorem witness_DrawInvertsTheSpritePixels :
    (1 < 16 ∧ 1 ≤ 1 ∧ 4095 < (R.setI 4096).i.toNat + 1 - 1) ∧ (15 < 16 ∧ (R.setI 4081).i.toNat + 15 - 1 ≤ 4095) ∧
    (0 < 16 ∧ (0 = 0 ∨ (R.setI 65535).i.toNat + 0 - 1 ≤ 4095)) := by decide

theorem witness_DrawingTwiceRestoresTheDisplay :
    2 < 16 ∧ (1 : Reg) ≠ VF ∧ (2 : Reg) ≠ VF ∧ spriteA.i.toNat + 2 ≤ 4096 ∧
    pixel spriteA.disp 31 62 = false ∧ pixel (spriteA.drawAt (spriteA.readV 1) (spriteA.readV 2) 2).disp 31 62 = true := by
  decide

theorem witness_KeyWait :
    let s := press 3 (press 7 R)
    (s.key[(3 : Fin 16)] = true ∧ ∀ j : Fin 16, j < 3 → s.key[j] = false) ∧ ∀ k : Fin 16, R.key[k] = false := by decide

theorem witness_DecimalDigitsAreStored : 4095 < (R.setI 4094).base + 2 ∧ (R.setI 4093).base + 2 ≤ 4095 := by decide

theorem witness_RegistersAreStored :
    (1 ≤ (1 : Reg).val ∧ 4095 < (R.setI 4096).base + (1 : Reg).val - 1) ∧
    ((R.setI 4081).base + (15 : Reg).val - 1 ≤ 4095 ∧ (14 : Reg) < 15) ∧ (0 : Reg).val = 0 := by decide

theorem witness_RegistersAreLoaded :
    (1 ≤ (15 : Reg).val ∧ 4095 < (R.setI 4082).base + (15 : Reg).val - 1) ∧
    ((R.setI 4095).base + (1 : Reg).val - 1 ≤ 4095 ∧ (0 : Reg) < 1) ∧ (0 : Reg).val = 0 := by decide

theorem witness_BlockLoadUndoesBlockStore :
    (R.setI 4081).base + (15 : Reg).val ≤ 4096 ∧ ∃ t, exec (.ldMemVx 15) (R.setI 4081) = .next t ∧
      ∃ u : State, u.mem = t.mem ∧ u.i = (R.setI 4081).i ∧ u.readV 0 ≠ t.readV 0 :=
  ⟨by decide, _, rfl, (R.setI 4081).writeV 0 9, by decide, rfl, by decide⟩

/-- The last byte stored and the last byte of the next word at 0xFFF, an odd `pc`, and no byte stored. -/
theorem witness_StoreIsSeenByTheNextFetch :
    (let s := placed 0xF255 ((R.setPc 0xFFC).setI 0xFFE)
     s.fault = none ∧ s.pc.toNat ≤ 0xFFC ∧ decodeWord s.fetchWord = some (.ldMemVx 2) ∧
     s.base + (2 : Reg).val - 1 ≤ 4095 ∧ s.base = s.pc.toNat + 2 ∧ 2 ≤ (2 : Reg).val) ∧
    (let s := placed 0xF033 ((R.setPc 0xFFB).setI 0xFFD)
     s.fault = none ∧ s.pc.toNat ≤ 0xFFC ∧ decodeWord s.fetchWord = some (.ldBVx 0) ∧ s.base + 2 ≤ 4095 ∧
     s.base = s.pc.toNat + 2) ∧
    (let s := placed 0xF055 (R.setI 0xFFFF)
     s.fault = none ∧ s.pc.toNat ≤ 0xFFC ∧ decodeWord s.fetchWord = some (.ldMemVx 0) ∧ (0 : Reg).val = 0) := by decide

theorem witness_LoadCopiesTheImage : (List.replicate 3584 (0x60 : Byte)).length ≤ 3584 ∧ 0 < (List.replicate 3584 (0x60 : Byte)).length := by
  rw [List.length_replicate]; decide

theorem witness_LoadOutOfTurnIsRefused :
    3584 < (List.replicate 3585 (0x60 : Byte)).length ∧ (⟨R, .loaded⟩ : Session).phase = .loaded ∧
    (⟨R, .running⟩ : Session).phase = .running ∧ (∃ h, applyMove .reset ⟨R, .running⟩ = .next h) ∧
    (∃ h, applyMove (.load [0x60, 0x05]) (.start .default) = .next h) ∧
    (∃ h, applyMove (.writeKey R.key) ⟨R, .loaded⟩ = .next h) ∧ ∃ h, applyMove .cycle ⟨R, .loaded⟩ = .next h :=
  ⟨by rw [List.length_replicate]; decide, rfl, rfl, ⟨_, rfl⟩, ⟨_, rfl⟩, ⟨_, rfl⟩, ⟨_, rfl⟩⟩

theorem witness_ParametersNeverChange :
    (∃ h, applyMove .reset ⟨R, .running⟩ = .next h) ∧ (∃ h, applyMove (.load [0x60]) (.start .default) = .next h) ∧
    (∃ h, applyMove (.writeKey R.key) ⟨R, .loaded⟩ = .next h) ∧ ∃ h, applyMove .cycle ⟨R, .loaded⟩ = .next h :=
  ⟨⟨_, rfl⟩, ⟨_, rfl⟩, ⟨_, rfl⟩, ⟨_, rfl⟩⟩

end Sys2Proof.Tests
end

section
/-!
The obligations about memory and the fetch (spec section 20).
-/

namespace Sys2Proof.Proofs.Memory

open Sys2Proof.Machine

/-- Settles O10 (R63): the law of the fetched word, which nothing about `pc` restricts. -/
theorem fetchIsBigEndian : Obligations.FetchIsBigEndian :=
  State.fetchWord_toNat

end Sys2Proof.Proofs.Memory
end

section
/-!
The obligations about the decoder and the encoder (spec section 30).
-/

namespace Sys2Proof.Proofs.Encoding

/-- Settles O9 (R104): closed facts, so each of the three decodings and the string of six bytes is evaluated. -/
theorem workedEncodingsDecode : Obligations.WorkedEncodingsDecode := by
  refine ⟨?load5, ?load3, ?add, ?bytes⟩
  case load5 => decide
  case load3 => decide
  case add => decide
  case bytes => decide

end Sys2Proof.Proofs.Encoding
end

section
/-!
The obligations about the display clear and the jump (spec section 41), after the frames of the two updates that they
make.
-/

namespace Sys2Proof.Proofs.FamilyZeroToTwo

open Sys2Proof.Machine

/-! ### Frames -/

theorem unchanged_refl (w : Writes) (s : State) : Unchanged w s s where
  regs _ _ := rfl
  i _ := rfl
  pc _ := rfl
  stack _ _ := rfl
  sp _ := rfl
  dt _ := rfl
  st _ := rfl
  mem _ _ := rfl
  disp _ := rfl
  key := rfl
  opcode := rfl
  fault _ := rfl
  draws _ := rfl
  params := rfl

theorem unchanged_setDisp (d : Display) (s : State) : Unchanged { disp := True } s (s.setDisp d) :=
  { unchanged_refl _ s with disp := fun h => absurd trivial h }

theorem unchanged_setPc (w : Word) (s : State) : Unchanged { pc := True } s (s.setPc w) :=
  { unchanged_refl _ s with pc := fun h => absurd trivial h }

/-! ### What the two instructions decode from and answer -/

theorem exec_cls (s : State) : exec .cls s = .next (s.setDisp blankDisplay) := rfl

theorem exec_jp (nnn : Addr12) (s : State) : exec (.jp nnn) s = .next (s.setPc (addrOperand nnn)) := rfl

theorem decodeWord_cls : decodeWord 0x00E0 = some .cls := by decide

/-- The family nibble alone selects the jump (R95). -/
theorem decodeWord_wordA_jp (nnn : Addr12) : decodeWord (wordA 0x1 nnn) = some (.jp nnn) := by
  simp [decodeWord]

/-! ### The obligations -/

/-- Settles O25 (R140): the clear answers the blank display, in which every pixel is off. -/
theorem clearDisplay : Obligations.ClearDisplay :=
  ⟨decodeWord_cls, fun s => ⟨_, exec_cls s, pixel_blankDisplay, unchanged_setDisp _ s⟩⟩

/-- Settles O27 (R142): the jump answers `pc` as the zero-extended `nnn`. -/
theorem jumpSetsPc : Obligations.JumpSetsPc := fun nnn s =>
  ⟨decodeWord_wordA_jp nnn, _, exec_jp nnn s, addrOperand_toNat nnn, unchanged_setPc _ s⟩

end Sys2Proof.Proofs.FamilyZeroToTwo
end

section
/-!
The obligations about the skips on an immediate and the immediate load (spec section 42), after the frames of the two
operations that they run and the value each leaves.
-/

namespace Sys2Proof.Proofs.FamilyThreeToSeven

open Sys2Proof.Machine Sys2Proof.Proofs.FamilyZeroToTwo

/-! ### Frames -/

/-- A skip is taken, and writes `pc`, or is not taken, and leaves the state as it was. -/
theorem unchanged_skipIf (c : Bool) (s : State) : Unchanged { pc := True } s (s.skipIf c) := by
  cases c with
  | false => exact unchanged_refl _ s
  | true => exact unchanged_setPc _ s

theorem unchanged_writeV (x : Reg) (b : Byte) (s : State) :
    Unchanged { regs := fun r => r = x } s (s.writeV x b) :=
  { unchanged_refl _ s with regs := fun r hr => (s.readV_writeV x r b).trans (if_neg hr) }

/-! ### The values left: `pc` after a skip on two bytes, compared as numbers, and the register written -/

theorem skipIf_beq_pc (a b : Byte) (s : State) :
    (s.skipIf (a == b)).pc = if a.toNat = b.toNat then s.pc + 2 else s.pc := by
  simp [BitVec.toNat_inj]

theorem skipIf_bne_pc (a b : Byte) (s : State) :
    (s.skipIf (a != b)).pc = if a.toNat = b.toNat then s.pc else s.pc + 2 := by
  simp [BitVec.toNat_inj]

theorem readV_writeV_same (x : Reg) (b : Byte) (s : State) : (s.writeV x b).readV x = b :=
  (s.readV_writeV x x b).trans (if_pos rfl)

/-! ### What the three instructions decode from and answer: the family nibble alone selects each (R95) -/

theorem exec_seVxKk (x : Reg) (kk : Byte) (s : State) :
    exec (.seVxKk x kk) s = .next (s.skipIf (s.readV x == kk)) := rfl

theorem exec_sneVxKk (x : Reg) (kk : Byte) (s : State) :
    exec (.sneVxKk x kk) s = .next (s.skipIf (s.readV x != kk)) := rfl

theorem exec_ldVxKk (x : Reg) (kk : Byte) (s : State) : exec (.ldVxKk x kk) s = .next (s.writeV x kk) := rfl

theorem decodeWord_wordXK_seVxKk (x : Reg) (kk : Byte) : decodeWord (wordXK 0x3 x kk) = some (.seVxKk x kk) := by
  simp [decodeWord]

theorem decodeWord_wordXK_sneVxKk (x : Reg) (kk : Byte) : decodeWord (wordXK 0x4 x kk) = some (.sneVxKk x kk) := by
  simp [decodeWord]

theorem decodeWord_wordXK_ldVxKk (x : Reg) (kk : Byte) : decodeWord (wordXK 0x6 x kk) = some (.ldVxKk x kk) := by
  simp [decodeWord]

/-! ### The obligations -/

/-- Settles O31 (R150, R151): each word decodes to its skip, and each skip answers `skipIf` on its comparison. -/
theorem skipsOnAnImmediate : Obligations.SkipsOnAnImmediate := fun x kk s =>
  ⟨decodeWord_wordXK_seVxKk x kk, decodeWord_wordXK_sneVxKk x kk,
    ⟨_, exec_seVxKk x kk s, skipIf_beq_pc _ kk s, unchanged_skipIf _ s⟩,
    ⟨_, exec_sneVxKk x kk s, skipIf_bne_pc _ kk s, unchanged_skipIf _ s⟩⟩

/-- Settles O34 (R153): the load answers the one register write. -/
theorem loadImmediate : Obligations.LoadImmediate := fun x kk s =>
  ⟨decodeWord_wordXK_ldVxKk x kk, _, exec_ldVxKk x kk s, readV_writeV_same x kk s, unchanged_writeV x kk s⟩

end Sys2Proof.Proofs.FamilyThreeToSeven
end

section
/-!
The obligations about the register move and the bitwise logic (spec section 43). All four answer one register write, so
its frame and its value come from the lemmas of section 42.
-/

namespace Sys2Proof.Proofs.FamilyEight

open Sys2Proof.Machine Sys2Proof.Proofs.FamilyThreeToSeven

/-! ### What the four instructions decode from and answer: the family nibble selects the second level, whose sub-opcode
is `n` (R95) -/

theorem decodeWord_wordXYN_8 (x : Reg) (z n : Nibble) :
    decodeWord (wordXYN 0x8 x z n) = decodeFamily8 (wordXYN 0x8 x z n) := by
  simp [decodeWord]

theorem decodeWord_wordXYN_ldVxVy (x y : Reg) :
    decodeWord (wordXYN 0x8 x (regBits y) 0x0) = some (.ldVxVy x y) := by
  rw [decodeWord_wordXYN_8]; simp [decodeFamily8]

theorem decodeWord_wordXYN_or (x y : Reg) : decodeWord (wordXYN 0x8 x (regBits y) 0x1) = some (.or x y) := by
  rw [decodeWord_wordXYN_8]; simp [decodeFamily8]

theorem decodeWord_wordXYN_and (x y : Reg) : decodeWord (wordXYN 0x8 x (regBits y) 0x2) = some (.and x y) := by
  rw [decodeWord_wordXYN_8]; simp [decodeFamily8]

theorem decodeWord_wordXYN_xor (x y : Reg) : decodeWord (wordXYN 0x8 x (regBits y) 0x3) = some (.xor x y) := by
  rw [decodeWord_wordXYN_8]; simp [decodeFamily8]

theorem exec_ldVxVy (x y : Reg) (s : State) : exec (.ldVxVy x y) s = .next (s.writeV x (s.readV y)) := rfl

theorem exec_or (x y : Reg) (s : State) : exec (.or x y) s = .next (s.writeV x (s.readV x ||| s.readV y)) := rfl

theorem exec_and (x y : Reg) (s : State) : exec (.and x y) s = .next (s.writeV x (s.readV x &&& s.readV y)) := rfl

theorem exec_xor (x y : Reg) (s : State) : exec (.xor x y) s = .next (s.writeV x (s.readV x ^^^ s.readV y)) := rfl

/-- An instruction that answers the write of `r` to `x`, each bit of `r` being `op` of the same bit of `V[x]` and of
`V[y]`, computes `op` bit by bit into `x` and keeps everything else. -/
theorem exec_bitwise {i : Instr} {x y : Reg} {s : State} {r : Byte} (op : Bool → Bool → Bool)
    (hexec : exec i s = .next (s.writeV x r)) (hbits : ∀ b : Fin 8, r[b] = op (s.readV x)[b] (s.readV y)[b]) :
    ∃ t, exec i s = .next t ∧ Unchanged { regs := fun q => q = x } s t ∧
      ∀ b : Fin 8, (t.readV x)[b] = op (s.readV x)[b] (s.readV y)[b] :=
  ⟨_, hexec, unchanged_writeV x r s, (readV_writeV_same x r s).symm ▸ hbits⟩

/-! ### The obligations -/

/-- Settles O36 (R160): the move answers the write of `V[y]` to `x`. -/
theorem registerMove : Obligations.RegisterMove := fun x y s =>
  ⟨decodeWord_wordXYN_ldVxVy x y, _, exec_ldVxVy x y s, readV_writeV_same x _ s, unchanged_writeV x _ s⟩

/-- Settles O37 (R161 to R163): each word decodes to its operation, and a bit of the byte that it writes is that
function of the operands' bits. -/
theorem bitwiseLogic : Obligations.BitwiseLogic := fun x y s =>
  ⟨decodeWord_wordXYN_or x y, decodeWord_wordXYN_and x y, decodeWord_wordXYN_xor x y,
    exec_bitwise or (exec_or x y s) fun _ => BitVec.getElem_or _,
    exec_bitwise and (exec_and x y s) fun _ => BitVec.getElem_and _,
    exec_bitwise bne (exec_xor x y s) fun _ => BitVec.getElem_xor _⟩

end Sys2Proof.Proofs.FamilyEight
end

section
/-!
The obligation about the load of the index register (spec section 44), after the frame of the update that it makes.
-/

namespace Sys2Proof.Proofs.FamilyNineToC

open Sys2Proof.Machine Sys2Proof.Proofs.FamilyZeroToTwo

/-! ### Frame -/

theorem unchanged_setI (w : Word) (s : State) : Unchanged { i := True } s (s.setI w) :=
  { unchanged_refl _ s with i := fun h => absurd trivial h }

/-! ### What the instruction decodes from and answers -/

theorem exec_ldINnn (nnn : Addr12) (s : State) : exec (.ldINnn nnn) s = .next (s.setI (addrOperand nnn)) := rfl

/-- The family nibble alone selects the load (R95). -/
theorem decodeWord_wordA_ldINnn (nnn : Addr12) : decodeWord (wordA 0xA nnn) = some (.ldINnn nnn) := by
  simp [decodeWord]

/-! ### The obligation -/

/-- Settles O43 (R181): the load answers `I` as the zero-extended `nnn`. -/
theorem loadIndex : Obligations.LoadIndex := fun nnn s =>
  ⟨decodeWord_wordA_ldINnn nnn, _, exec_ldINnn nnn s, addrOperand_toNat nnn, unchanged_setI _ s⟩

end Sys2Proof.Proofs.FamilyNineToC
end

section
/-!
The obligation about the reads and writes of the two timers (spec section 47), after the frames of the updates that the
writes make. The tick at the end of the cycle is not part of `exec`.
-/

namespace Sys2Proof.Proofs.FamilyF

open Sys2Proof.Machine Sys2Proof.Proofs.FamilyZeroToTwo Sys2Proof.Proofs.FamilyThreeToSeven

/-! ### Frames -/

theorem unchanged_setDT (b : Byte) (s : State) : Unchanged { dt := True } s (s.setDT b) :=
  { unchanged_refl _ s with dt := fun h => absurd trivial h }

theorem unchanged_setST (b : Byte) (s : State) : Unchanged { st := True } s (s.setST b) :=
  { unchanged_refl _ s with st := fun h => absurd trivial h }

/-! ### What the three instructions decode from and answer: the family nibble selects the second level, whose sub-opcode
is `kk` (R95) -/

theorem decodeWord_wordXK_F (x : Reg) (kk : Byte) : decodeWord (wordXK 0xF x kk) = decodeFamilyF (wordXK 0xF x kk) := by
  simp [decodeWord]

theorem decodeWord_wordXK_ldVxDt (x : Reg) : decodeWord (wordXK 0xF x 0x07) = some (.ldVxDt x) := by
  rw [decodeWord_wordXK_F]; simp [decodeFamilyF]

theorem decodeWord_wordXK_ldDtVx (x : Reg) : decodeWord (wordXK 0xF x 0x15) = some (.ldDtVx x) := by
  rw [decodeWord_wordXK_F]; simp [decodeFamilyF]

theorem decodeWord_wordXK_ldStVx (x : Reg) : decodeWord (wordXK 0xF x 0x18) = some (.ldStVx x) := by
  rw [decodeWord_wordXK_F]; simp [decodeFamilyF]

theorem exec_ldVxDt (x : Reg) (s : State) : exec (.ldVxDt x) s = .next (s.writeV x s.dt) := rfl

theorem exec_ldDtVx (x : Reg) (s : State) : exec (.ldDtVx x) s = .next (s.setDT (s.readV x)) := rfl

theorem exec_ldStVx (x : Reg) (s : State) : exec (.ldStVx x) s = .next (s.setST (s.readV x)) := rfl

/-! ### The obligation -/

/-- Settles O49 (R210, R212, R213): the read answers one register write, and each write answers the write of its own
timer. -/
theorem timerReadsAndWrites : Obligations.TimerReadsAndWrites := fun x s =>
  ⟨decodeWord_wordXK_ldVxDt x, decodeWord_wordXK_ldDtVx x, decodeWord_wordXK_ldStVx x,
    ⟨_, exec_ldVxDt x s, readV_writeV_same x s.dt s, unchanged_writeV x s.dt s⟩,
    ⟨_, exec_ldDtVx x s, s.setDT_dt _, unchanged_setDT _ s⟩,
    ⟨_, exec_ldStVx x s, s.setST_st _, unchanged_setST _ s⟩⟩

end Sys2Proof.Proofs.FamilyF
end

section
/-!
The obligation about the host's load (spec section 48), after the frame and the bytes of the store that it makes.
-/

namespace Sys2Proof.Proofs.Interfaces

open Sys2Proof.Machine Sys2Proof.Proofs.FamilyZeroToTwo

/-! ### The store of a string of bytes: its frame, and the bytes it leaves -/

theorem unchanged_storeBytes (a : Nat) (bs : List Byte) (s : State) :
    Unchanged { mem := fun c => a ≤ c ∧ c < a + bs.length } s (s.storeBytes a bs) :=
  { unchanged_refl _ s with mem := fun c hc => (s.mem.read_writeBytes bs a c).trans (if_neg hc) }

theorem read_storeBytes_add (a : Nat) (bs : List Byte) (s : State) {k : Nat} (hk : k < bs.length) :
    (s.storeBytes a bs).mem.read (a + k) = bs.getD k 0 := by
  have hin : a ≤ a + k ∧ a + k < a + bs.length := by omega
  rw [State.storeBytes_mem, Memory.read_writeBytes, if_pos hin, Nat.add_sub_cancel_left]

/-! ### What the move answers -/

/-- Right after reset, a load that fits is accepted, and answers the store of the image from `PROG_BASE`. -/
theorem applyMove_load_fresh {image : List Byte} (h : image.length ≤ Config.maxImage) (s : State) :
    applyMove (.load image) ⟨s, .fresh⟩ = .next ⟨s.storeBytes Config.progBase image, .loaded⟩ :=
  if_pos h

/-! ### The obligation -/

/-- Settles O56 (R233): the accepted load answers the one store of the image from 0x200. -/
theorem loadCopiesTheImage : Obligations.LoadCopiesTheImage := fun image s hfit =>
  ⟨_, applyMove_load_fresh hfit s, fun _ hk => read_storeBytes_add Config.progBase image s hk,
    unchanged_storeBytes Config.progBase image s⟩

end Sys2Proof.Proofs.Interfaces
end

section
/-!
The two directions of the round trip between instructions and words (spec section 30). Every well-formed instruction's
word decodes to it, so the statements about single instructions take their decoding from `decodeWord_encode`.
-/

namespace Sys2Proof.Proofs.RoundTrip

open Sys2Proof.Proofs.FamilyEight Sys2Proof.Proofs.FamilyF

/-! ### From an instruction to its word and back -/

theorem decodeWord_wordXK_E (x : Reg) (kk : Byte) : decodeWord (wordXK 0xE x kk) = decodeFamilyE (wordXK 0xE x kk) := by
  simp [decodeWord]

/-- The decoder finds an instruction in its own word: by the family alone, or, for 0x8, 0xE and 0xF, by the second
level too (R95). -/
theorem decodeWord_encode {i : Instr} (h : i.wellFormed) : decodeWord (encode i) = some i := by
  cases i with
  | cls | ret => decide
  | drw x y n =>
    have hn : n < 16 := by simpa [Instr.wellFormed] using h
    simp [encode, decodeWord, Nat.mod_eq_of_lt hn]
  | ldVxVy | or | and | xor | addVxVy | sub | shr | subn | shl =>
    rw [encode, decodeWord_wordXYN_8]; simp [decodeFamily8]
  | skp | sknp => rw [encode, decodeWord_wordXK_E]; simp [decodeFamilyE]
  | ldVxDt | ldVxK | ldDtVx | ldStVx | addIVx | ldFVx | ldBVx | ldMemVx | ldVxMem =>
    rw [encode, decodeWord_wordXK_F]; simp [decodeFamilyF]
  | _ => simp [encode, decodeWord]

/-- Settles O5 (R90 to R96): the bytes of a word give the word back, and the word decodes to its instruction. -/
theorem encodedInstructionDecodes : Obligations.EncodedInstructionDecodes := fun i rest h => by
  rw [encodeBytes, decode_bytesOfWord, decodeWord_encode h]

/-! ### From a word to its fields and back: a word is its fields laid out in each of the formats of R93 -/

theorem wordA_fields {w : Word} {f : Nibble} (hf : (fieldFam w).toNat = f.toNat) : wordA f (fieldNNN w) = w := by
  rw [← BitVec.eq_of_toNat_eq hf]
  exact BitVec.extractLsb'_append_extractLsb' (w := 4) (len := 12)

theorem fieldX_append_fieldKK (w : Word) : regBits (fieldX w) ++ fieldKK w = fieldNNN w :=
  BitVec.extractLsb'_append_extractLsb'_eq_extractLsb' rfl

theorem fieldYBits_append_fieldN (w : Word) : fieldYBits w ++ fieldN w = fieldKK w :=
  BitVec.extractLsb'_append_extractLsb'_eq_extractLsb' rfl

theorem wordXK_fields {w : Word} {f : Nibble} {kk : Byte} (hf : (fieldFam w).toNat = f.toNat)
    (hk : (fieldKK w).toNat = kk.toNat) : wordXK f (fieldX w) kk = w := by
  rw [← BitVec.eq_of_toNat_eq hk, wordXK_eq, fieldX_append_fieldKK, wordA_fields hf]

theorem wordXYN_fields {w : Word} {f n : Nibble} (hf : (fieldFam w).toNat = f.toNat)
    (hn : (fieldN w).toNat = n.toNat) : wordXYN f (fieldX w) (fieldYBits w) n = w := by
  rw [wordXYN_eq, ← BitVec.eq_of_toNat_eq hn, fieldYBits_append_fieldN, wordXK_fields hf rfl]

/-! ### Encoding what a word decodes to, family by family -/

theorem encode_decodeFamily0 {w : Word} {i : Instr} (h : decodeFamily0 w = some i) :
    encode i = w ∧ i.wellFormed = true := by
  unfold decodeFamily0 at h
  split at h
  case isTrue hw => cases h; exact ⟨hw.symm, rfl⟩
  case isFalse =>
    split at h
    case isTrue hw => cases h; exact ⟨hw.symm, rfl⟩
    case isFalse => cases h

theorem encode_decodeFamily8 {w : Word} {i : Instr} (hf : (fieldFam w).toNat = 0x8)
    (h : decodeFamily8 w = some i) : encode i = w ∧ i.wellFormed = true := by
  unfold decodeFamily8 at h
  split at h <;> cases h <;> exact ⟨wordXYN_fields hf ‹_›, rfl⟩

theorem encode_decodeFamilyE {w : Word} {i : Instr} (hf : (fieldFam w).toNat = 0xE)
    (h : decodeFamilyE w = some i) : encode i = w ∧ i.wellFormed = true := by
  unfold decodeFamilyE at h
  split at h <;> cases h <;> exact ⟨wordXK_fields hf ‹_›, rfl⟩

theorem encode_decodeFamilyF {w : Word} {i : Instr} (hf : (fieldFam w).toNat = 0xF)
    (h : decodeFamilyF w = some i) : encode i = w ∧ i.wellFormed = true := by
  unfold decodeFamilyF at h
  split at h <;> cases h <;> exact ⟨wordXK_fields hf ‹_›, rfl⟩

theorem fieldFam_le (w : Word) : (fieldFam w).toNat ≤ 0xF := Nat.le_of_lt_succ (fieldFam w).isLt

/-- The cases are the families, numbered from 1; the last one is 0xF because no other nibble is left. -/
theorem encode_decodeWord {w : Word} {i : Instr} (h : decodeWord w = some i) : encode i = w ∧ i.wellFormed = true := by
  unfold decodeWord at h
  split at h
  case h_1 => exact encode_decodeFamily0 h
  case h_9 hf => exact encode_decodeFamily8 hf h
  case h_15 hf => exact encode_decodeFamilyE hf h
  case h_16 =>
    have := fieldFam_le w
    exact encode_decodeFamilyF (by grind) h
  case h_14 hf =>
    cases h
    have hn : BitVec.ofNat 4 (fieldN w).toNat = fieldN w := by simp
    exact ⟨by rw [encode, hn]; exact wordXYN_fields hf rfl, decide_eq_true (fieldN w).isLt⟩
  case h_2 hf | h_3 hf | h_11 hf | h_12 hf => cases h; exact ⟨wordA_fields hf, rfl⟩
  case h_6 hf | h_10 hf => cases h; exact ⟨wordXYN_fields hf rfl, rfl⟩
  case h_4 hf | h_5 hf | h_7 hf | h_8 hf | h_13 hf => cases h; exact ⟨wordXK_fields hf rfl, rfl⟩

/-- Settles O6 (R91 to R96): the operands and the ignored fields are the fields of the word, and those are the word. -/
theorem decodedWordReencodes : Obligations.DecodedWordReencodes := fun _ _ h => encode_decodeWord h

end Sys2Proof.Proofs.RoundTrip
end

section
/-!
The unknown words, and the opcode map of match and mask (spec section 30.2). The decoder finds nothing exactly when the
family has a second level that finds nothing, and the second level looks at no bit that the rows of its family mask out.
-/

namespace Sys2Proof.Proofs.OpcodeMap

open Sys2Proof.Proofs.RoundTrip

/-! ### The fields as numbers -/

theorem fieldFam_toNat (w : Word) : (fieldFam w).toNat = w.toNat / 4096 := by
  have := w.isLt
  rw [fieldFam, BitVec.extractLsb'_toNat, Nat.shiftRight_eq_div_pow]
  omega

theorem fieldN_toNat (w : Word) : (fieldN w).toNat = w.toNat % 16 := by
  rw [fieldN, BitVec.extractLsb'_toNat, Nat.shiftRight_zero]

theorem fieldKK_toNat (w : Word) : (fieldKK w).toNat = w.toNat % 256 := by
  rw [fieldKK, BitVec.extractLsb'_toNat, Nat.shiftRight_zero]

/-! ### Where the decoder finds nothing -/

theorem decodeFamily0_eq_none {w : Word} : decodeFamily0 w = none ↔ w.toNat ≠ 0x00E0 ∧ w.toNat ≠ 0x00EE := by
  have hcls : w.toNat = 0x00E0 ↔ w = 0x00E0#16 := BitVec.toNat_inj (y := 0x00E0#16)
  have hret : w.toNat = 0x00EE ↔ w = 0x00EE#16 := BitVec.toNat_inj (y := 0x00EE#16)
  rw [Ne, Ne, hcls, hret]
  unfold decodeFamily0
  split <;> simp [*]

theorem decodeFamily8_eq_none {w : Word} :
    decodeFamily8 w = none ↔ (fieldN w).toNat ∈ [8, 9, 0xA, 0xB, 0xC, 0xD, 0xF] := by
  have := (fieldN w).isLt
  simp only [List.mem_cons, List.not_mem_nil, or_false]
  unfold decodeFamily8
  split <;> grind

theorem decodeFamilyE_eq_none {w : Word} : decodeFamilyE w = none ↔ (fieldKK w).toNat ∉ [0x9E, 0xA1] := by
  simp only [List.mem_cons, List.not_mem_nil, or_false]
  unfold decodeFamilyE
  split <;> grind

theorem decodeFamilyF_eq_none {w : Word} :
    decodeFamilyF w = none ↔ (fieldKK w).toNat ∉ [0x07, 0x0A, 0x15, 0x18, 0x1E, 0x29, 0x33, 0x55, 0x65] := by
  simp only [List.mem_cons, List.not_mem_nil, or_false]
  unfold decodeFamilyF
  split <;> grind

theorem decodeWord_eq_none {w : Word} : decodeWord w = none ↔
    ((fieldFam w).toNat = 0x0 ∧ decodeFamily0 w = none) ∨ ((fieldFam w).toNat = 0x8 ∧ decodeFamily8 w = none) ∨
    ((fieldFam w).toNat = 0xE ∧ decodeFamilyE w = none) ∨ ((fieldFam w).toNat = 0xF ∧ decodeFamilyF w = none) := by
  have := fieldFam_le w
  unfold decodeWord
  split <;> grind

/-- Settles O8 (R97, D10): the second level finds nothing exactly at the sub-opcodes of the table. -/
theorem unknownWordsAreTheListedOnes : Obligations.UnknownWordsAreTheListedOnes := fun w => by
  rw [decodeWord_eq_none, decodeFamily0_eq_none, decodeFamily8_eq_none, decodeFamilyE_eq_none, decodeFamilyF_eq_none,
    fieldFam_toNat, fieldN_toNat, fieldKK_toNat]

/-! ### The rows: an instruction's word selects its own, and no two rows select the same word -/

theorem encode_selects_row (i : Instr) : encode i &&& i.row.mask = i.row.matchBits := by
  cases i with
  | cls | ret => rfl
  | ldVxVy | or | and | xor | addVxVy | sub | shr | subn | shl => exact wordXYN_mask _ _ _ _
  | skp | sknp | ldVxDt | ldVxK | ldDtVx | ldStVx | addIVx | ldFVx | ldBVx | ldMemVx | ldVxMem =>
    exact wordXK_mask _ _ _
  | _ => exact wordA_mask _ _

theorem row_mem_opcodeMap (i : Instr) : i.row ∈ opcodeMap := by
  cases i <;> exact of_decide_eq_true rfl

/-- Two rows whose match bits agree on the bits that both examine are one row. -/
theorem opcodeMap_agree :
    ∀ r ∈ opcodeMap, ∀ q ∈ opcodeMap, r.matchBits &&& q.mask = q.matchBits &&& r.mask → r = q := by
  decide

theorem row_unique {w : Word} {r q : OpRow} (hr : r ∈ opcodeMap) (hq : q ∈ opcodeMap)
    (hwr : w &&& r.mask = r.matchBits) (hwq : w &&& q.mask = q.matchBits) : r = q :=
  opcodeMap_agree r hr q hq (by rw [← hwr, ← hwq]; ac_rfl)

/-! ### An unknown word selects no row: every row examines the family and decodes at the second level's field -/

theorem opcodeMap_family : ∀ r ∈ opcodeMap, fieldFam r.mask = BitVec.allOnes 4 := by decide

theorem opcodeMap_family0 : ∀ r ∈ opcodeMap, (fieldFam r.matchBits).toNat = 0x0 →
    r.mask = BitVec.allOnes 16 ∧ decodeFamily0 r.matchBits ≠ none := by decide

theorem opcodeMap_family8 : ∀ r ∈ opcodeMap, (fieldFam r.matchBits).toNat = 0x8 →
    fieldN r.mask = BitVec.allOnes 4 ∧ decodeFamily8 r.matchBits ≠ none := by decide

theorem opcodeMap_familyE : ∀ r ∈ opcodeMap, (fieldFam r.matchBits).toNat = 0xE →
    fieldKK r.mask = BitVec.allOnes 8 ∧ decodeFamilyE r.matchBits ≠ none := by decide

theorem opcodeMap_familyF : ∀ r ∈ opcodeMap, (fieldFam r.matchBits).toNat = 0xF →
    fieldKK r.mask = BitVec.allOnes 8 ∧ decodeFamilyF r.matchBits ≠ none := by decide

/-- A field that the row examines in full is in the selected word as it is in the row. -/
theorem extract_of_selects {w : Word} {r : OpRow} {a k : Nat} (hw : w &&& r.mask = r.matchBits)
    (hm : r.mask.extractLsb' a k = BitVec.allOnes k) : r.matchBits.extractLsb' a k = w.extractLsb' a k := by
  rw [← hw, BitVec.extractLsb'_and, hm, BitVec.and_allOnes]

theorem decodeWord_ne_none_of_selects {w : Word} {r : OpRow} (hr : r ∈ opcodeMap) (hw : w &&& r.mask = r.matchBits) :
    decodeWord w ≠ none := by
  have hfam : fieldFam r.matchBits = fieldFam w := extract_of_selects hw (opcodeMap_family r hr)
  rw [Ne, decodeWord_eq_none, ← hfam]
  rintro (⟨hf, hnone⟩ | ⟨hf, hnone⟩ | ⟨hf, hnone⟩ | ⟨hf, hnone⟩)
  · obtain ⟨hm, hne⟩ := opcodeMap_family0 r hr hf
    rw [hm, BitVec.and_allOnes] at hw
    exact hne (hw ▸ hnone)
  · obtain ⟨hm, hne⟩ := opcodeMap_family8 r hr hf
    have hn : fieldN r.matchBits = fieldN w := extract_of_selects hw hm
    rw [Ne, decodeFamily8_eq_none, hn, ← decodeFamily8_eq_none] at hne
    exact hne hnone
  · obtain ⟨hm, hne⟩ := opcodeMap_familyE r hr hf
    have hkk : fieldKK r.matchBits = fieldKK w := extract_of_selects hw hm
    rw [Ne, decodeFamilyE_eq_none, hkk, ← decodeFamilyE_eq_none] at hne
    exact hne hnone
  · obtain ⟨hm, hne⟩ := opcodeMap_familyF r hr hf
    have hkk : fieldKK r.matchBits = fieldKK w := extract_of_selects hw hm
    rw [Ne, decodeFamilyF_eq_none, hkk, ← decodeFamilyF_eq_none] at hne
    exact hne hnone

/-- Settles O7 (R95, R96, D10): a decoded word is its instruction's word, which selects that instruction's row. -/
theorem decoderFollowsTheOpcodeMap : Obligations.DecoderFollowsTheOpcodeMap := by
  refine ⟨rfl, fun w => ⟨fun i hi => ⟨row_mem_opcodeMap i, fun r hr => ?row⟩, fun hnone r hr hw => ?unknown⟩⟩
  case row =>
    have hown : w &&& i.row.mask = i.row.matchBits := (encode_decodeWord hi).1 ▸ encode_selects_row i
    constructor
    · exact fun hw => row_unique hr (row_mem_opcodeMap i) hw hown
    · rintro rfl
      exact hown
  case unknown => exact decodeWord_ne_none_of_selects hr hw hnone

end Sys2Proof.Proofs.OpcodeMap
end

section
/-!
What one instruction can do (spec sections 10.9 and 60.1): under the conditions of the fault table it raises, and
otherwise it completes and writes nothing but what the table of writers lists for it.
-/

namespace Sys2Proof.Proofs.Writers

open Sys2Proof.Machine Sys2Proof.Proofs.FamilyZeroToTwo Sys2Proof.Proofs.FamilyThreeToSeven
  Sys2Proof.Proofs.FamilyNineToC Sys2Proof.Proofs.FamilyF Sys2Proof.Proofs.Interfaces

/-! ### Frames of the operations with more than one write -/

variable {w : Writes} (s : State)

theorem unchanged_trans {t u : State} (h : Unchanged w s t) (h' : Unchanged w t u) : Unchanged w s u where
  regs r hr := (h'.regs r hr).trans (h.regs r hr)
  i hw := (h'.i hw).trans (h.i hw)
  pc hw := (h'.pc hw).trans (h.pc hw)
  stack j hj := (h'.stack j hj).trans (h.stack j hj)
  sp hw := (h'.sp hw).trans (h.sp hw)
  dt hw := (h'.dt hw).trans (h.dt hw)
  st hw := (h'.st hw).trans (h.st hw)
  mem a ha := (h'.mem a ha).trans (h.mem a ha)
  disp hw := (h'.disp hw).trans (h.disp hw)
  key := h'.key.trans h.key
  opcode := h'.opcode.trans h.opcode
  fault hw := (h'.fault hw).trans (h.fault hw)
  draws hw := (h'.draws hw).trans (h.draws hw)
  params := h'.params.trans h.params

/-- A register write is within every list of writes that names the register. -/
theorem unchanged_writeV_of {x : Reg} (hx : w.regs x) (b : Byte) : Unchanged w s (s.writeV x b) :=
  { unchanged_refl w s with
    regs := fun r hr => (s.readV_writeV x r b).trans (if_neg (by rintro rfl; exact hr hx)) }

/-- The result and then the flag. -/
theorem unchanged_writeV_writeFlag (x : Reg) (b : Byte) (f : Bool) :
    Unchanged { regs := fun r => r = x ∨ r = VF } s ((s.writeV x b).writeFlag f) :=
  unchanged_trans s (unchanged_writeV_of s (Or.inl rfl) b) (unchanged_writeV_of _ (Or.inr rfl) _)

/-- The flag and then the result. -/
theorem unchanged_writeFlag_writeV (x : Reg) (b : Byte) (f : Bool) :
    Unchanged { regs := fun r => r = x ∨ r = VF } s ((s.writeFlag f).writeV x b) :=
  unchanged_trans s (unchanged_writeV_of s (Or.inr rfl) _) (unchanged_writeV_of _ (Or.inl rfl) b)

theorem unchanged_pushAndJump (j : Fin 16) (a : Word) :
    Unchanged { stack := fun k => k = j, sp := True, pc := True } s (s.pushAndJump j a) :=
  { unchanged_refl _ s with
    pc := fun h => absurd trivial h
    sp := fun h => absurd trivial h
    stack := fun k hk => (s.stack_set_get j k s.pc).trans (if_neg hk) }

theorem unchanged_popAndJump (j : Fin 16) : Unchanged { sp := True, pc := True } s (s.popAndJump j) :=
  { unchanged_refl _ s with pc := fun h => absurd trivial h, sp := fun h => absurd trivial h }

theorem unchanged_writeRandom (x : Reg) (kk r : Byte) :
    Unchanged { regs := fun q => q = x, draws := True } s (s.writeRandom x kk r) :=
  { unchanged_refl _ s with
    regs := fun q hq => (s.readV_writeV x q (kk &&& r)).trans (if_neg hq)
    draws := fun h => absurd trivial h }

/-- Field by field from the laws of the state: `rfl` would first compare the registers of the two states. -/
theorem unchanged_loadLowRegs (a n : Nat) : Unchanged { regs := fun r => r.val < n } s (s.loadLowRegs a n) where
  regs r hr := (s.readV_loadLowRegs a n r).trans (if_neg hr)
  i _ := s.loadLowRegs_i a n
  pc _ := s.loadLowRegs_pc a n
  stack j _ := congrArg (fun v => v[j]) (s.loadLowRegs_stack a n)
  sp _ := s.loadLowRegs_sp a n
  dt _ := s.loadLowRegs_dt a n
  st _ := s.loadLowRegs_st a n
  mem c _ := congrArg (fun m => m.read c) (s.loadLowRegs_mem a n)
  disp _ := s.loadLowRegs_disp a n
  key := s.loadLowRegs_key a n
  opcode := s.loadLowRegs_opcode a n
  fault _ := s.loadLowRegs_fault a n
  draws _ := s.loadLowRegs_draws a n
  params := s.loadLowRegs_params a n

theorem unchanged_storeLowRegs (a : Nat) {n : Nat} (hn : n ≤ 16) :
    Unchanged { mem := fun c => a ≤ c ∧ c < a + n } s (s.storeBytes a (s.lowRegs n)) := by
  have hframe := unchanged_storeBytes a (s.lowRegs n) s
  rwa [s.lowRegs_length n hn] at hframe

theorem unchanged_drawAt (vx vy : Byte) (n : Nat) :
    Unchanged { regs := fun r => r = VF, disp := True } s (s.drawAt vx vy n) :=
  { unchanged_refl _ s with
    regs := fun r hr => (State.readV_writeFlag _ r _).trans (if_neg hr)
    disp := fun h => absurd trivial h }

/-! ### The fault table, on the state that the fetch leaves -/

variable {s}

theorem of_ite_eq_some {α : Type} {p : Prop} [Decidable p] {a b : α} (h : (if p then some a else none) = some b) :
    p ∧ a = b :=
  (Option.ite_none_right_eq_some.1 h).imp_right Option.some.inj

theorem not_of_ite_eq_none {α : Type} {p : Prop} [Decidable p] {a : α}
    (h : (if p then some a else none) = none) : ¬ p :=
  fun hp => by simp [hp] at h

/-- An instruction that the fault table lists raises: it sets the latch and changes nothing else. -/
theorem exec_raises {i : Instr} {r : Fault × Nat} (h : instrFault i { s with pc := s.pc - 2 } = some r) :
    exec i s = .next { s with fault := some ⟨r.1, r.2, s.pc - 2⟩ } := by
  cases i with
  | ret =>
    obtain ⟨hsp, rfl⟩ := of_ite_eq_some h
    exact exec_ret_empty s (Fin.ext hsp)
  | call nnn =>
    obtain ⟨hsp, rfl⟩ := of_ite_eq_some h
    exact exec_call_full s nnn (Nat.not_lt.2 (Nat.le_of_eq hsp.symm))
  | drw x y m =>
    obtain ⟨hbeyond, rfl⟩ := of_ite_eq_some h
    exact exec_drw_beyond s x y m hbeyond
  | skp x =>
    obtain ⟨hkey, rfl⟩ := of_ite_eq_some h
    exact exec_skp_beyond s x hkey
  | sknp x =>
    obtain ⟨hkey, rfl⟩ := of_ite_eq_some h
    exact exec_sknp_beyond s x hkey
  | ldBVx x =>
    obtain ⟨hbeyond, rfl⟩ := of_ite_eq_some h
    exact exec_ldBVx_beyond s x hbeyond
  | ldMemVx x =>
    obtain ⟨hbeyond, rfl⟩ := of_ite_eq_some h
    exact exec_ldMemVx_beyond s x hbeyond
  | ldVxMem x =>
    obtain ⟨hbeyond, rfl⟩ := of_ite_eq_some h
    exact exec_ldVxMem_beyond s x hbeyond
  | _ => cases h

/-! What an instruction that the fault table does not list runs, for those that it lists on other states. -/

theorem exec_ret_of_no_fault (h : instrFault .ret { s with pc := s.pc - 2 } = none) :
    ∃ h0 : s.sp ≠ 0, exec .ret s = .next (s.popAndJump (s.sp.pred h0)) :=
  have h0 : s.sp ≠ 0 := fun h0 => not_of_ite_eq_none h (congrArg Fin.val h0)
  ⟨h0, exec_ret_pop s h0⟩

theorem exec_call_of_no_fault {nnn : Addr12} (h : instrFault (.call nnn) { s with pc := s.pc - 2 } = none) :
    ∃ hsp : s.sp.val < 16, exec (.call nnn) s = .next (s.pushAndJump ⟨s.sp.val, hsp⟩ (addrOperand nnn)) :=
  have hsp : s.sp.val < 16 := Nat.lt_of_le_of_ne (Nat.le_of_lt_succ s.sp.isLt) (not_of_ite_eq_none h)
  ⟨hsp, exec_call_push s nnn hsp⟩

theorem exec_skp_of_no_fault {x : Reg} (h : instrFault (.skp x) { s with pc := s.pc - 2 } = none) :
    ∃ hk : (s.readV x).toNat < 16, exec (.skp x) s = .next (s.skipIf s.key[(s.readV x).toNat]) :=
  have hk : (s.readV x).toNat < 16 := Nat.lt_of_not_le (not_of_ite_eq_none h)
  ⟨hk, exec_skp_key s x hk⟩

theorem exec_sknp_of_no_fault {x : Reg} (h : instrFault (.sknp x) { s with pc := s.pc - 2 } = none) :
    ∃ hk : (s.readV x).toNat < 16, exec (.sknp x) s = .next (s.skipIf (!s.key[(s.readV x).toNat])) :=
  have hk : (s.readV x).toNat < 16 := Nat.lt_of_not_le (not_of_ite_eq_none h)
  ⟨hk, exec_sknp_key s x hk⟩

theorem exec_drw_of_no_fault {x y : Reg} {n : Nat} (h : instrFault (.drw x y n) { s with pc := s.pc - 2 } = none) :
    exec (.drw x y n) s = .next (s.drawAt (s.readV x) (s.readV y) n) :=
  exec_drw_fits s x y n (not_of_ite_eq_none h)

theorem exec_ldBVx_of_no_fault {x : Reg} (h : instrFault (.ldBVx x) { s with pc := s.pc - 2 } = none) :
    exec (.ldBVx x) s = .next (s.storeBytes s.base (decimalDigits (s.readV x))) :=
  exec_ldBVx_fits s x (not_of_ite_eq_none h)

theorem exec_ldMemVx_of_no_fault {x : Reg} (h : instrFault (.ldMemVx x) { s with pc := s.pc - 2 } = none) :
    exec (.ldMemVx x) s = .next (s.storeBytes s.base (s.lowRegs x.val)) :=
  exec_ldMemVx_fits s x (not_of_ite_eq_none h)

theorem exec_ldVxMem_of_no_fault {x : Reg} (h : instrFault (.ldVxMem x) { s with pc := s.pc - 2 } = none) :
    exec (.ldVxMem x) s = .next (s.loadLowRegs s.base x.val) :=
  exec_ldVxMem_fits s x (not_of_ite_eq_none h)

/-- An instruction that the fault table does not list completes, within its list of writers. -/
theorem exec_completes {i : Instr} (h : instrFault i { s with pc := s.pc - 2 } = none) :
    ∃ t, exec i s = .next t ∧ Unchanged (instrWriters i s) s t := by
  cases i with
  | cls => exact ⟨_, rfl, unchanged_setDisp _ s⟩
  | ret =>
    obtain ⟨_, hexec⟩ := exec_ret_of_no_fault h
    exact ⟨_, hexec, unchanged_popAndJump s _⟩
  | call nnn =>
    obtain ⟨hsp, hexec⟩ := exec_call_of_no_fault h
    exact ⟨_, hexec, { unchanged_pushAndJump s _ _ with
      stack := fun k hk => (unchanged_pushAndJump s _ _).stack k fun he => hk (congrArg Fin.val he) }⟩
  | skp x =>
    obtain ⟨_, hexec⟩ := exec_skp_of_no_fault h
    exact ⟨_, hexec, unchanged_skipIf _ s⟩
  | sknp x =>
    obtain ⟨_, hexec⟩ := exec_sknp_of_no_fault h
    exact ⟨_, hexec, unchanged_skipIf _ s⟩
  | drw x y n => exact ⟨_, exec_drw_of_no_fault h, unchanged_drawAt s _ _ n⟩
  | ldBVx x => exact ⟨_, exec_ldBVx_of_no_fault h, unchanged_storeBytes s.base (decimalDigits (s.readV x)) s⟩
  | ldMemVx x => exact ⟨_, exec_ldMemVx_of_no_fault h, unchanged_storeLowRegs s s.base x.isLt.le⟩
  | ldVxMem x => exact ⟨_, exec_ldVxMem_of_no_fault h, unchanged_loadLowRegs s _ _⟩
  | ldVxK x =>
    cases hk : s.leastKey with
    | some k =>
      have hx : (instrWriters (.ldVxK x) s).regs x := ⟨rfl, k, (State.leastKey_eq_some.1 hk).1⟩
      exact ⟨_, exec_ldVxK_down s x hk, unchanged_writeV_of s hx _⟩
    | none =>
      exact ⟨_, exec_ldVxK_up s x hk,
        { unchanged_refl _ s with pc := fun h => absurd (State.leastKey_eq_none.1 hk) h }⟩
  | jp _ | jpV0 _ => exact ⟨_, rfl, unchanged_setPc _ s⟩
  | seVxKk _ _ | sneVxKk _ _ | seVxVy _ _ _ | sneVxVy _ _ _ => exact ⟨_, rfl, unchanged_skipIf _ s⟩
  | ldVxKk | addVxKk | ldVxVy | or | and | xor | ldVxDt => exact ⟨_, rfl, unchanged_writeV _ _ s⟩
  | addVxVy => exact ⟨_, rfl, unchanged_writeV_writeFlag s _ _ _⟩
  | sub | subn | shr | shl => exact ⟨_, rfl, unchanged_writeFlag_writeV s _ _ _⟩
  | ldINnn | addIVx | ldFVx => exact ⟨_, rfl, unchanged_setI _ s⟩
  | rnd => exact ⟨_, rfl, unchanged_writeRandom s _ _ _⟩
  | ldDtVx => exact ⟨_, rfl, unchanged_setDT _ s⟩
  | ldStVx => exact ⟨_, rfl, unchanged_setST _ s⟩

/-- No instruction is listed as a writer of the latch. -/
theorem not_instrWriters_fault (i : Instr) (s : State) : ¬ (instrWriters i s).fault := by
  cases i <;> exact id

/-- Settles O21 (R38, R261): the two cases of the fault table. -/
theorem onlyTheListedWritersWrite : Obligations.OnlyTheListedWritersWrite := fun i s => by
  cases h : instrFault i { s with pc := s.pc - 2 } with
  | none => exact exec_completes h
  | some r => exact ⟨_, exec_raises h, rfl⟩

/-- An instruction answers a next state: the one that it raises in, or the one that it completes in. -/
theorem exec_answers (i : Instr) (s : State) : ∃ t, exec i s = .next t :=
  (onlyTheListedWritersWrite i s).imp fun _ h => h.1

end Sys2Proof.Proofs.Writers
end

section
/-!
One cycle (spec sections 40 and 60.1): the four things that it can do, and what follows for every piece of state that no
instruction writes.
-/

namespace Sys2Proof.Proofs.Cycle

open Sys2Proof.Machine Sys2Proof.Proofs.Writers

variable {s t : State}

/-! ### The fault table of a cycle -/

/-- The fault table reads neither the opcode nor, but for the recorded value, where the fetch has left `pc`. -/
theorem instrFault_fetched (i : Instr) (s : State) :
    instrFault i { s.fetched with pc := s.fetched.pc - 2 } = instrFault i s := by
  have hpc : s.fetched.pc - 2 = s.pc := BitVec.add_sub_cancel _ _
  rw [hpc]
  cases i <;> rfl

theorem faultOfCycle_of_outside (hp : 0xFFE < s.pc.toNat) : s.faultOfCycle = some ⟨.fetchOob, s.pc.toNat, s.pc⟩ :=
  if_pos hp

theorem faultOfCycle_of_unknown (hp : s.pc.toNat ≤ 0xFFE) (hd : decodeWord s.fetchWord = none) :
    s.faultOfCycle = none := by
  rw [State.faultOfCycle, if_neg (Nat.not_lt.2 hp), ← State.fetchWord_eq, hd]

theorem faultOfCycle_of_instr {i : Instr} (hp : s.pc.toNat ≤ 0xFFE) (hd : decodeWord s.fetchWord = some i) :
    s.faultOfCycle = (instrFault i s).map fun r => ⟨r.1, r.2, s.pc⟩ := by
  rw [State.faultOfCycle, if_neg (Nat.not_lt.2 hp), ← State.fetchWord_eq, hd]
  cases h : instrFault i s <;> simp [h]

/-- The value recorded by an instruction is what its cause allows, and no instruction records a fetch fault. -/
theorem instrFault_sane {i : Instr} {r : Fault × Nat} (h : instrFault i s = some r) :
    r.1 ≠ .fetchOob ∧ FaultRecord.sane ⟨r.1, r.2, s.pc⟩ := by
  cases i with
  | drw | ldBVx | ldMemVx | ldVxMem =>
    obtain ⟨_, rfl⟩ := of_ite_eq_some h
    exact ⟨nofun, Nat.le_max_right _ _, Nat.max_le.2 ⟨Nat.le_of_lt_succ s.i.isLt, by decide⟩⟩
  | call | ret =>
    obtain ⟨_, rfl⟩ := of_ite_eq_some h
    exact ⟨nofun, rfl⟩
  | skp x | sknp x =>
    obtain ⟨hk, rfl⟩ := of_ite_eq_some h
    exact ⟨nofun, hk, Nat.le_of_lt_succ (s.readV x).isLt⟩
  | _ => cases h

/-- A record of the fault table of a cycle is the fetch's, outside memory, or an instruction's. -/
theorem faultOfCycle_cases {r : FaultRecord} (h : s.faultOfCycle = some r) :
    (0xFFE < s.pc.toNat ∧ r = ⟨.fetchOob, s.pc.toNat, s.pc⟩) ∨
      (s.pc.toNat ≤ 0xFFE ∧ ∃ i q, decodeWord s.fetchWord = some i ∧ instrFault i s = some q ∧
        r = ⟨q.1, q.2, s.pc⟩) := by
  rcases Nat.lt_or_ge 0xFFE s.pc.toNat with hp | hp
  · exact .inl ⟨hp, Option.some.inj (h.symm.trans (faultOfCycle_of_outside hp))⟩
  · cases hd : decodeWord s.fetchWord with
    | none => cases (faultOfCycle_of_unknown hp hd).symm.trans h
    | some i =>
      rw [faultOfCycle_of_instr hp hd, Option.map_eq_some_iff] at h
      obtain ⟨q, hi, rfl⟩ := h
      exact .inr ⟨hp, i, q, rfl, hi, rfl⟩

theorem faultOfCycle_atPc {r : FaultRecord} (h : s.faultOfCycle = some r) : r.atPc = s.pc := by
  rcases faultOfCycle_cases h with ⟨_, rfl⟩ | ⟨_, i, q, _, _, rfl⟩ <;> rfl

theorem faultOfCycle_cause_ne {r : FaultRecord} (hp : s.pc.toNat ≤ 0xFFE) (h : s.faultOfCycle = some r) :
    r.cause ≠ .fetchOob := by
  rcases faultOfCycle_cases h with ⟨hp', _⟩ | ⟨_, i, q, _, hi, rfl⟩
  · omega
  · exact (instrFault_sane hi).1

theorem faultOfCycle_sane {r : FaultRecord} (h : s.faultOfCycle = some r) : r.sane := by
  rcases faultOfCycle_cases h with ⟨hp, rfl⟩ | ⟨_, i, q, _, hi, rfl⟩
  · exact ⟨rfl, hp⟩
  · exact (instrFault_sane hi).2

/-! ### What a cycle can do -/

/-- The instruction `i` that a cycle decodes completes, and leaves `u` to the timer tick. -/
structure Completes (s : State) (i : Instr) (u : State) : Prop where
  fits : s.pc.toNat ≤ 0xFFE
  decodes : decodeWord s.fetchWord = some i
  noFault : instrFault i { s.fetched with pc := s.fetched.pc - 2 } = none
  runs : exec i s.fetched = .next u
  frame : Unchanged (instrWriters i s.fetched) s.fetched u

/-- The four things that a cycle can do (R120 to R129). -/
inductive Transition (s : State) : State → Prop where
  /-- A faulted core does nothing. -/
  | halted (hf : s.fault ≠ none) : Transition s s
  /-- The fetch or the instruction raises, and nothing else happens. -/
  | raises (hf : s.fault = none) (r : FaultRecord) (hr : s.faultOfCycle = some r) :
      Transition s { s with fault := some r }
  /-- The word is unknown, a no-op of two bytes. -/
  | unknown (hf : s.fault = none) (hp : s.pc.toNat ≤ 0xFFE) (hd : decodeWord s.fetchWord = none) :
      Transition s s.fetched.tick
  /-- An instruction completes, and the timers tick. -/
  | completes (hf : s.fault = none) (i : Instr) (u : State) (hc : Completes s i u) : Transition s u.tick

/-- A cycle answers a next state, by one of the four. -/
theorem step_transition (s : State) : ∃ t, step s = .next t ∧ Transition s t := by
  cases hf : s.fault with
  | some r => exact ⟨s, step_of_faulted (by simp [hf]), .halted (by simp [hf])⟩
  | none =>
    rcases Nat.lt_or_ge 0xFFE s.pc.toNat with hp | hp
    · exact ⟨_, step_of_fetch_outside hf hp, .raises hf _ (faultOfCycle_of_outside hp)⟩
    · cases hd : decodeWord s.fetchWord with
      | none => exact ⟨_, step_of_unknown hf hp hd, .unknown hf hp hd⟩
      | some i =>
        cases hi : instrFault i { s.fetched with pc := s.fetched.pc - 2 } with
        | some r =>
          have hexec := exec_raises hi
          have hr : s.faultOfCycle = some ⟨r.1, r.2, s.pc⟩ := by
            rw [faultOfCycle_of_instr hp hd, ← instrFault_fetched, hi]; rfl
          rw [show s.fetched.pc - 2 = s.pc from s.instrAddr_fetched] at hexec
          exact ⟨_, (step_of_exec hf hp hd hexec).trans (congrArg _ (State.commit_raised rfl)), .raises hf _ hr⟩
        | none =>
          obtain ⟨u, hexec, hframe⟩ := exec_completes hi
          have hu : u.fault = none := (hframe.fault (not_instrWriters_fault i _)).trans hf
          exact ⟨_, (step_of_exec hf hp hd hexec).trans (congrArg _ (State.commit_completed hu)),
            .completes hf i u ⟨hp, hd, hi, hexec, hframe⟩⟩

theorem transition_of_step (h : step s = .next t) : Transition s t := by
  obtain ⟨u, hu, htr⟩ := step_transition s
  cases hu.symm.trans h
  exact htr

/-! ### What the completion of an instruction leaves as it was: it has no fault, and no instruction writes these -/

theorem Completes.fault {i : Instr} {u : State} (hc : Completes s i u) : u.fault = s.fault :=
  hc.frame.fault (not_instrWriters_fault i _)

theorem Completes.faultOfCycle {i : Instr} {u : State} (hc : Completes s i u) : s.faultOfCycle = none := by
  have hi := hc.noFault
  rw [instrFault_fetched] at hi
  rw [faultOfCycle_of_instr hc.fits hc.decodes, hi]
  rfl

theorem Transition.key (h : Transition s t) : t.key = s.key := by
  cases h with
  | halted | raises | unknown => rfl
  | completes _ i u hc => exact hc.frame.key

theorem Transition.params (h : Transition s t) : t.params = s.params := by
  cases h with
  | halted | raises | unknown => rfl
  | completes _ i u hc => exact hc.frame.params

/-- The latch after a cycle from a state without a fault is what the fault table gives. -/
theorem Transition.fault (h : Transition s t) (hf : s.fault = none) : t.fault = s.faultOfCycle := by
  cases h with
  | halted hf' => exact absurd hf hf'
  | raises _ r hr => exact hr.symm
  | unknown _ hp hd => exact hf.trans (faultOfCycle_of_unknown hp hd).symm
  | completes _ i u hc => exact (hc.fault.trans hf).trans hc.faultOfCycle.symm

/-- A cycle that completes was an unknown word or an instruction. -/
theorem Transition.of_completed (h : Transition s t) (ht : t.fault = none) :
    (s.pc.toNat ≤ 0xFFE ∧ decodeWord s.fetchWord = none ∧ t = s.fetched.tick) ∨
      ∃ i u, Completes s i u ∧ t = u.tick := by
  cases h with
  | halted hf => exact absurd ht hf
  | raises _ r _ => cases ht
  | unknown _ hp hd => exact .inl ⟨hp, hd, rfl⟩
  | completes _ i u hc => exact .inr ⟨i, u, hc, rfl⟩

theorem step_of_raises {r : FaultRecord} (hf : s.fault = none) (hr : s.faultOfCycle = some r) :
    step s = .next { s with fault := some r } := by
  obtain ⟨t, hstep, htr⟩ := step_transition s
  cases htr with
  | halted hf' => exact absurd hf hf'
  | raises _ q hq => cases hq.symm.trans hr; exact hstep
  | unknown _ hp hd => cases (faultOfCycle_of_unknown hp hd).symm.trans hr
  | completes _ i u hc => cases hc.faultOfCycle.symm.trans hr

/-! ### The obligations about the latch -/

/-- A cycle that raises signals no event: its fetch is outside memory, or its word is an instruction. -/
theorem unknownOpcode_of_raises {r : FaultRecord} (hr : s.faultOfCycle = some r) : s.unknownOpcode = none := by
  rcases faultOfCycle_cases hr with ⟨hp, _⟩ | ⟨_, i, _, hd, _, _⟩
  · exact if_pos (by simp [State.fetchFails_iff.2 hp])
  · simp [State.unknownOpcode, hd]

/-- Settles O15 (R262, D6): what the latch holds is the record of the fault table, and the cycle that raises it does
nothing else. -/
theorem faultingCycleCommitsNothing : Obligations.FaultingCycleCommitsNothing := by
  intro s t r hf hstep ht
  have hr : s.faultOfCycle = some r := ((transition_of_step hstep).fault hf).symm.trans ht
  have heq : t = { s with fault := some r } := Host.Outcome.next.inj (hstep.symm.trans (step_of_raises hf hr))
  exact ⟨heq, faultOfCycle_atPc hr, unknownOpcode_of_raises hr⟩

/-- Settles O16 (R261, D4, D5, D7, D8): each of the four things that a cycle can do leaves the latch as the
table gives it. -/
theorem cycleFaultsExactlyByTheTable : Obligations.CycleFaultsExactlyByTheTable :=
  ⟨rfl, fun s hf => (step_transition s).imp fun _ h => ⟨h.1, h.2.fault hf⟩⟩

/-- Settles O17 (log 4): an instruction raises or completes, and a cycle does one of four things. -/
theorem everyCycleAnswersANextState : Obligations.EveryCycleAnswersANextState :=
  ⟨exec_answers, fun s => (step_transition s).imp fun _ h => h.1⟩

/-! ### The obligation about the keypad -/

/-- Settles O22 (R31, R243): no list of writers has the keypad, and the host's key write is `State.setKey`. -/
theorem keypadIsWrittenByTheHostOnly : Obligations.KeypadIsWrittenByTheHostOnly :=
  ⟨fun _ _ h => (transition_of_step h).key, fun _ _ => ⟨_, rfl, rfl, rfl⟩⟩

/-! ### The obligations about the fetch and the word that it latches -/

theorem decodeWord_of_decode {hi lo : Byte} {i : Instr} {rest : List Byte}
    (h : decode [hi, lo] = .instr i rest) : decodeWord (wordOfBytes hi lo) = some i := by
  cases hd : decodeWord (wordOfBytes hi lo) with
  | none => simp [decode, hd] at h
  | some j =>
    simp only [decode, hd, Decoded.instr.injEq] at h
    rw [h.1]

/-- Inside memory `pc` is far from its wrap, so the advance is exact. -/
theorem toNat_add_two {a : Word} (h : a.toNat ≤ 0xFFE) : (a + 2).toNat = a.toNat + 2 := by
  have h2 : (2 : Word).toNat = 2 := rfl
  rw [BitVec.toNat_add, h2]
  omega

/-- Settles O11 (R120 to R126, R262): the commit is the tick, or only the latch. -/
theorem cycleRunsTheDecodedInstruction : Obligations.CycleRunsTheDecodedInstruction := by
  intro s t i hf hp hd hexec
  have hstep : step s = .next (s.commit t) := step_of_exec hf hp (decodeWord_of_decode hd) hexec
  constructor
  · intro ht
    rw [State.commit_completed ht] at hstep
    exact ⟨_, hstep, rfl, tickByte_toNat _, tickByte_toNat _⟩
  · intro ht
    obtain ⟨r, hr⟩ := Option.ne_none_iff_exists'.1 ht
    rw [hstep, State.commit_raised hr, hr]; rfl

/-- Settles O12 (R125, D22): the one thing that a cycle does on an unknown word. -/
theorem unknownOpcodeIsATwoByteNoOp : Obligations.UnknownOpcodeIsATwoByteNoOp := by
  intro s hf hp hd
  refine ⟨?event, _, step_of_unknown hf hp hd, rfl, ?pc, tickByte_toNat _, tickByte_toNat _⟩
  case event => simp [State.unknownOpcode, hf, hd, State.fetchFails, hp]
  case pc => exact toNat_add_two hp

/-- Settles O13 (R121, D5): a fetch inside memory leaves only the causes of an instruction, and every cycle that
completes keeps the word that the fetch latched. -/
theorem fetchIsBoundsChecked : Obligations.FetchIsBoundsChecked := by
  intro s hf
  refine ⟨fun hp => step_of_fetch_outside hf hp, fun hp => ?_⟩
  obtain ⟨t, hstep, htr⟩ := step_transition s
  refine ⟨t, hstep, ?cause, ?word⟩
  case cause =>
    intro r hr
    exact faultOfCycle_cause_ne hp ((htr.fault hf).symm.trans hr)
  case word =>
    intro ht
    rw [← State.fetchWord_toNat]
    rcases htr.of_completed ht with ⟨_, _, rfl⟩ | ⟨i, u, hc, rfl⟩
    · rfl
    · exact congrArg BitVec.toNat hc.frame.opcode

end Sys2Proof.Proofs.Cycle
end

section
/-!
What a completed cycle leaves in the timers and in `pc` (spec sections 40.1 and 10.4).
-/

namespace Sys2Proof.Proofs.TimersAndPc

open Sys2Proof.Machine Sys2Proof.Proofs.Writers Sys2Proof.Proofs.Cycle Sys2Proof.Proofs.FamilyF
  Sys2Proof.Proofs.FamilyThreeToSeven

variable {s t u : State} {i : Instr}

/-! ### Timers -/

/-- Settles O18 (R126, D6, D20): of the instructions, `Fx15` and `Fx18` write a timer, and the tick follows. -/
theorem timersTickOncePerCompletedCycle : Obligations.TimersTickOncePerCompletedCycle := by
  intro s t hstep
  have htr := transition_of_step hstep
  refine ⟨fun ht => ?completed, fun ht => ?kept⟩
  case completed =>
    rcases htr.of_completed ht with ⟨_, hd, rfl⟩ | ⟨i, u, hc, rfl⟩
    · rw [hd]
      exact ⟨tickByte_toNat _, tickByte_toNat _⟩
    · rw [hc.decodes, State.tick_dt, State.tick_st, tickByte_toNat, tickByte_toNat]
      have hrun := hc.runs
      cases i with
      | ldDtVx x => cases hrun; exact ⟨rfl, rfl⟩
      | ldStVx x => cases hrun; exact ⟨rfl, rfl⟩
      | _ => rw [hc.frame.dt id, hc.frame.st id]; exact ⟨rfl, rfl⟩
  case kept =>
    cases htr with
    | halted | raises => exact ⟨rfl, rfl⟩
    | unknown hf hp hd => exact absurd hf ht
    | completes hf i u hc => exact absurd (hc.fault.trans hf) ht

/-- A completed cycle whose word is an instruction runs it. -/
theorem completes_of_step (hstep : step s = .next t) (ht : t.fault = none) (hd : decodeWord s.fetchWord = some i) :
    ∃ u, Completes s i u ∧ t = u.tick := by
  rcases (transition_of_step hstep).of_completed ht with ⟨_, hd', _⟩ | ⟨j, u, hc, rfl⟩
  · cases hd'.symm.trans hd
  · cases hc.decodes.symm.trans hd
    exact ⟨u, hc, rfl⟩

/-- Settles O19 (R127, D20): the law of the timers for the two cycles, and the read of `DT` between them. -/
theorem freshTimerIsTickedInItsOwnCycle : Obligations.FreshTimerIsTickedInItsOwnCycle := by
  intro s t u x y _ hstep ht
  obtain ⟨hdt, hst⟩ := (timersTickOncePerCompletedCycle s t hstep).1 ht
  refine ⟨fun hd => by simpa only [hd] using hst, fun hd => ?_⟩
  have hdt : t.dt.toNat = (s.readV x).toNat - 1 := by simpa only [hd] using hdt
  refine ⟨hdt, fun hd' hstep' hu => ?_⟩
  have hdt' : u.dt.toNat = t.dt.toNat - 1 := by
    simpa only [hd'] using ((timersTickOncePerCompletedCycle t u hstep').1 hu).1
  obtain ⟨v, hc, rfl⟩ := completes_of_step hstep' hu hd'
  have hv : v = t.fetched.writeV y t.dt := by cases hc.runs; rfl
  constructor
  · rw [State.tick_readV, hv, readV_writeV_same, hdt]
  · rw [hdt', hdt]; omega

/-! ### `pc` -/

/-- Inside memory a skip adds 2 or 4 to the address of the instruction. -/
theorem skipIf_fetched_pc (hp : s.pc.toNat ≤ 0xFFE) (c : Bool) :
    (s.fetched.skipIf c).pc.toNat = if c then s.pc.toNat + 4 else s.pc.toNat + 2 := by
  have h2 : (2 : Word).toNat = 2 := rfl
  cases c <;> simp [BitVec.toNat_add] <;> omega

/-- The writers of `pc` one by one; every other instruction leaves the address of the next word (R122). -/
theorem completes_pc (hc : Completes s i u) : u.pc.toNat = instrPcAfter i s := by
  have hrun := hc.runs
  cases i with
  | ret =>
    obtain ⟨h0, hexec⟩ := exec_ret_of_no_fault hc.noFault
    cases hexec.symm.trans hrun
    have hsp : s.sp.val - 1 < 16 := by have := s.sp.isLt; omega
    simp [instrPcAfter, hsp]
  | jp nnn => cases hrun; exact addrOperand_toNat nnn
  | call nnn =>
    obtain ⟨_, hexec⟩ := exec_call_of_no_fault hc.noFault
    cases hexec.symm.trans hrun
    exact addrOperand_toNat nnn
  | jpV0 nnn => cases hrun; exact offsetTarget_toNat _ nnn
  | seVxKk | sneVxKk | seVxVy | sneVxVy =>
    cases hrun
    refine (skipIf_fetched_pc hc.fits _).trans ?_
    simp [instrPcAfter]
  | skp x =>
    obtain ⟨hk, hexec⟩ := exec_skp_of_no_fault hc.noFault
    cases hexec.symm.trans hrun
    rw [State.fetched_readV] at hk
    exact (skipIf_fetched_pc hc.fits _).trans (if_congr (by simp [hk]) rfl rfl)
  | sknp x =>
    obtain ⟨hk, hexec⟩ := exec_sknp_of_no_fault hc.noFault
    cases hexec.symm.trans hrun
    rw [State.fetched_readV] at hk
    exact (skipIf_fetched_pc hc.fits _).trans (if_congr (by simp [hk]) rfl rfl)
  | ldVxK x =>
    cases hk : s.fetched.leastKey with
    | some k =>
      cases (exec_ldVxK_down _ x hk).symm.trans hrun
      have hdown : ∃ k : Fin 16, s.key[k] = true := ⟨k, (State.leastKey_eq_some.1 hk).1⟩
      exact (toNat_add_two hc.fits).trans (if_pos hdown).symm
    | none =>
      cases (exec_ldVxK_up _ x hk).symm.trans hrun
      have hup : ¬ ∃ k : Fin 16, s.key[k] = true := fun ⟨k, h⟩ => by
        rw [show s.key[k] = false from State.leastKey_eq_none.1 hk k] at h
        cases h
      exact (congrArg BitVec.toNat s.instrAddr_fetched).trans (if_neg hup).symm
  | _ => rw [hc.frame.pc id]; exact toNat_add_two hc.fits

/-- Settles O20 (R24): the instructions that are not listed as writers of `pc` leave the fetch's advance. -/
theorem pcAtTheEndOfACycle : Obligations.PcAtTheEndOfACycle := by
  intro s t _ hstep ht
  rcases (transition_of_step hstep).of_completed ht with ⟨hp, hd, rfl⟩ | ⟨i, u, hc, rfl⟩
  · rw [hd]; exact toNat_add_two hp
  · rw [hc.decodes, State.tick_pc]; exact completes_pc hc

end Sys2Proof.Proofs.TimersAndPc
end

section
/-!
Reset, and the invariant that every cycle keeps (spec sections 10.4, 10.8, 20 and 60.1).
-/

namespace Sys2Proof.Proofs.Invariant

open Sys2Proof.Machine Sys2Proof.Proofs.Writers Sys2Proof.Proofs.Cycle Sys2Proof.Proofs.TimersAndPc

variable {s t u : State} {i : Instr}

/-! ### Reset -/

theorem resetWith_mem_wf (p : Params) : (State.resetWith p).mem.wf :=
  Memory.wf_writeBytes _ Memory.wf_nil (by rw [Vector.length_toList]; decide)

/-- What the latch says matters only when it is set. -/
theorem inv_of_unfaulted (hm : s.mem.wf) (hp : s.pc.toNat ≤ 0x10FE) (hs : ∀ j : Fin 16, s.stack[j].toNat ≤ 0x1000)
    (hf : s.fault = none) : s.Inv where
  memWf := hm
  pcBound := hp
  stackBound := hs
  latchAt _ hr := nomatch hf.symm.trans hr
  latchSane _ hr := nomatch hf.symm.trans hr

theorem reset_stack (j : Fin 16) : State.reset.stack[j] = 0 := by simp [State.reset]

theorem resetWith_inv (p : Params) : (State.resetWith p).Inv :=
  inv_of_unfaulted (resetWith_mem_wf p) (by rw [State.resetWith_pc]; decide)
    (fun j => by rw [State.resetWith_stack, reset_stack]; decide) rfl

/-- Settles O2 (R24, R37): the font is written inside memory, and the rest of the reset values is fixed. -/
theorem resetMeetsTheInvariant : Obligations.ResetMeetsTheInvariant :=
  ⟨State.resetWith_default ▸ resetWith_inv _, resetWith_inv⟩

/-- Settles O1 (R37): the font region reads as FONT after its bytes are written, and the other rows are fixed. -/
theorem resetLeavesTheStatedValues : Obligations.ResetLeavesTheStatedValues := by
  refine ⟨State.resetWith_default.symm, fun p =>
    ⟨?regs, rfl, rfl, reset_stack, rfl, rfl, rfl, ?font, ?zero, pixel_blankDisplay, ?key, rfl, rfl, rfl⟩⟩
  case regs => intro r; simp [State.readV, State.reset]
  case font =>
    intro k
    rw [State.read_resetWith, if_pos (by omega), Nat.add_sub_cancel_left]
    simp
  case zero => intro a ha; rw [State.read_resetWith, if_neg (by omega)]
  case key => intro k; simp [State.reset]

/-! ### Memory stays canonical -/

/-- Only `Fx33` and `Fx55` store, inside memory by the fault table; `Fx55` with `x = 0` stores nothing. -/
theorem completes_mem_wf (hc : Completes s i u) (hm : s.mem.wf) : u.mem.wf := by
  have hrun := hc.runs
  cases i with
  | ldBVx x =>
    cases (exec_ldBVx_of_no_fault hc.noFault).symm.trans hrun
    have hin : ¬ 4095 < s.base + 2 := not_of_ite_eq_none hc.noFault
    refine Memory.wf_writeBytes _ hm ?_
    show s.base + 3 ≤ 4096
    omega
  | ldMemVx x =>
    cases (exec_ldMemVx_of_no_fault hc.noFault).symm.trans hrun
    have hin : ¬(1 ≤ x.val ∧ 4095 < s.base + x.val - 1) := not_of_ite_eq_none hc.noFault
    show (s.mem.writeBytes s.base (s.lowRegs x.val)).wf
    rcases Nat.eq_zero_or_pos x.val with h0 | h0
    · rw [h0]; exact hm
    · refine Memory.wf_writeBytes _ hm ?_
      rw [s.lowRegs_length x.val x.isLt.le]
      show s.base + x.val ≤ 4096
      omega
  | ret =>
    obtain ⟨_, hexec⟩ := exec_ret_of_no_fault hc.noFault
    cases hexec.symm.trans hrun
    exact hm
  | call =>
    obtain ⟨_, hexec⟩ := exec_call_of_no_fault hc.noFault
    cases hexec.symm.trans hrun
    exact hm
  | skp =>
    obtain ⟨_, hexec⟩ := exec_skp_of_no_fault hc.noFault
    cases hexec.symm.trans hrun
    rwa [State.skipIf_mem]
  | sknp =>
    obtain ⟨_, hexec⟩ := exec_sknp_of_no_fault hc.noFault
    cases hexec.symm.trans hrun
    rwa [State.skipIf_mem]
  | drw =>
    cases (exec_drw_of_no_fault hc.noFault).symm.trans hrun
    exact hm
  | ldVxMem =>
    cases (exec_ldVxMem_of_no_fault hc.noFault).symm.trans hrun
    rwa [State.loadLowRegs_mem]
  | ldVxK x =>
    cases hk : s.fetched.leastKey with
    | some k => cases (exec_ldVxK_down _ x hk).symm.trans hrun; exact hm
    | none => cases (exec_ldVxK_up _ x hk).symm.trans hrun; exact hm
  | seVxKk | sneVxKk | seVxVy | sneVxVy => cases hrun; rwa [State.skipIf_mem]
  | _ => cases hrun; exact hm

/-! ### The bounds of `pc` and of the return addresses -/

/-- The largest target is that of `BFFF` with `V[0] = 255`, 0x10FE (R24). -/
theorem instrPcAfter_le (hp : s.pc.toNat ≤ 0xFFE) (hs : ∀ j : Fin 16, s.stack[j].toNat ≤ 0x1000) (i : Instr) :
    instrPcAfter i s ≤ 0x10FE := by
  cases i with
  | jp nnn | call nnn => have := nnn.isLt; simp only [instrPcAfter]; omega
  | jpV0 nnn => have := nnn.isLt; have := (s.readV 0).isLt; simp only [instrPcAfter]; omega
  | ret =>
    have hsp : s.sp.val - 1 < 16 := by have := s.sp.isLt; omega
    have hpop : instrPcAfter .ret s = s.stack[s.sp.val - 1].toNat := by simp [instrPcAfter, hsp]
    exact hpop.trans_le ((hs ⟨s.sp.val - 1, hsp⟩).trans (by decide))
  | seVxKk | sneVxKk | seVxVy | sneVxVy | skp | sknp | ldVxK => simp only [instrPcAfter]; split <;> omega
  | _ => simp only [instrPcAfter]; omega

/-- Only a call writes an entry, and it writes the address of the next word. -/
theorem completes_stack_le (hc : Completes s i u) (hs : ∀ j : Fin 16, s.stack[j].toNat ≤ 0x1000) (j : Fin 16) :
    u.stack[j].toNat ≤ 0x1000 := by
  cases i with
  | call nnn =>
    obtain ⟨hsp, hexec⟩ := exec_call_of_no_fault hc.noFault
    cases hexec.symm.trans hc.runs
    rw [State.pushAndJump_stack, State.stack_set_get]
    split
    · have := toNat_add_two hc.fits
      have := hc.fits
      rw [State.fetched_pc]
      omega
    · exact hs j
  | _ => rw [hc.frame.stack j id]; exact hs j

/-- Settles O3 (R24, R143, R261, R262, log 10): each of the four things that a cycle can do keeps the invariant. -/
theorem everyCycleKeepsTheInvariant : Obligations.EveryCycleKeepsTheInvariant := by
  intro s t hInv hstep
  cases transition_of_step hstep with
  | halted => exact hInv
  | raises _ r hr =>
    exact { memWf := hInv.memWf
            pcBound := hInv.pcBound
            stackBound := hInv.stackBound
            latchAt := fun _ h => Option.some.inj h ▸ faultOfCycle_atPc hr
            latchSane := fun _ h => Option.some.inj h ▸ faultOfCycle_sane hr }
  | unknown hf hp _ =>
    refine inv_of_unfaulted hInv.memWf ?_ hInv.stackBound hf
    have := toNat_add_two hp
    rw [State.tick_pc, State.fetched_pc]
    omega
  | completes hf i u hc =>
    have hmem : u.mem.wf := completes_mem_wf hc hInv.memWf
    have hstack : ∀ j : Fin 16, u.stack[j].toNat ≤ 0x1000 := completes_stack_le hc hInv.stackBound
    refine inv_of_unfaulted hmem ?_ hstack (hc.fault.trans hf)
    rw [State.tick_pc, completes_pc hc]
    exact instrPcAfter_le hc.fits hInv.stackBound i

end Sys2Proof.Proofs.Invariant
end

section
/-!
The moves of the host and runs of cycles (spec sections 48, 40.1 and 60.1).
-/

namespace Sys2Proof.Proofs.HostMoves

open Sys2Proof.Machine Sys2Proof.Proofs.Cycle Sys2Proof.Proofs.Invariant

variable {h h' : Session}

/-! ### What an accepted load and a cycle of a session answer -/

theorem load_accepted {image : List Byte} (hm : applyMove (.load image) h = .next h') :
    image.length ≤ Config.maxImage ∧ h' = ⟨h.core.loadImage image, .loaded⟩ := by
  rw [applyMove, Session.load] at hm
  split at hm
  case h_1 =>
    split at hm
    case isTrue hfit => cases hm; exact ⟨hfit, rfl⟩
    case isFalse => cases hm
  case h_2 => cases hm
  case h_3 => cases hm

theorem cycle_accepted (hm : applyMove .cycle h = .next h') :
    step h.core = .next h'.core ∧ h'.phase = .running := by
  rw [applyMove, Session.cycle] at hm
  split at hm
  case h_1 t ht => cases hm; exact ⟨ht, rfl⟩
  case h_2 => cases hm
  case h_3 => cases hm

/-! ### The obligations about one move -/

/-- Settles O4 (R232 to R237, log 8): the load stores inside memory, and the cycle is O3's. -/
theorem everyHostMoveKeepsTheInvariant : Obligations.EveryHostMoveKeepsTheInvariant := by
  intro m h h' hInv hm
  cases m with
  | reset =>
    cases hm
    obtain ⟨hmem, hpc, hstack, hat, hsane⟩ := resetWith_inv h.core.params
    exact ⟨hmem, hpc, hstack, hat, hsane⟩
  | load image =>
    obtain ⟨hfit, rfl⟩ := load_accepted hm
    have hin : Config.progBase + image.length ≤ Config.memSize := Nat.add_le_add_left hfit _
    exact { hInv with memWf := Memory.wf_writeBytes image hInv.memWf hin }
  | writeKey key => cases hm; exact { hInv with }
  | cycle => exact everyCycleKeepsTheInvariant _ _ hInv (cycle_accepted hm).1

/-- Settles O57 (R234, R235, D19, log 8): the load branches on the phase, and on the length when it is fresh. -/
theorem loadOutOfTurnIsRefused : Obligations.LoadOutOfTurnIsRefused := by
  refine ⟨fun image s hlong => if_neg (Nat.not_le.2 hlong), fun image h hphase => ?late, fun m h h' hm => ?phase⟩
  case late =>
    rcases hphase with hp | hp <;> rw [applyMove, Session.load, hp]
  case phase =>
    cases m with
    | reset => cases hm; rfl
    | load image => obtain ⟨_, rfl⟩ := load_accepted hm; rfl
    | writeKey key => cases hm; rfl
    | cycle => exact (cycle_accepted hm).2

/-- Settles O58 (R232, R301, D18, log 3, log 15): reset is `State.afterReset`, whatever the session. -/
theorem resetFromAnyState : Obligations.ResetFromAnyState := fun _ => ⟨_, rfl, rfl, rfl⟩

/-- Settles O60 (R6, log 15): no list of writers has the parameters, and a reset is one with the parameters it found. -/
theorem parametersNeverChange : Obligations.ParametersNeverChange := by
  intro m h h' hm
  cases m with
  | reset => cases hm; rfl
  | load image => obtain ⟨_, rfl⟩ := load_accepted hm; rfl
  | writeKey key => cases hm; rfl
  | cycle => exact (transition_of_step (cycle_accepted hm).1).params

/-! ### Runs of cycles -/

theorem core_run_succ {M : Host.Core} {s t : M.State} (hstep : M.step s = .next t) (k : Nat) :
    M.run (k + 1) s = M.run k t := by
  simp only [Host.Core.run, hstep]

theorem run_succ {s t : State} (hstep : step s = .next t) (k : Nat) :
    Host.Core.run Sys2Proof.core (k + 1) s = Host.Core.run Sys2Proof.core k t :=
  core_run_succ (M := Sys2Proof.core) hstep k

/-- A faulted core stays as it is, for any number of cycles (R129). -/
theorem run_of_faulted {s : State} (hf : s.fault ≠ none) (k : Nat) : Host.Core.run Sys2Proof.core k s = .next s := by
  induction k with
  | zero => rfl
  | succ k ih => rw [run_succ (step_of_faulted (Option.isSome_iff_ne_none.2 hf)), ih]

/-- Settles O14 (R129, R263, D6): by induction on the cycles, and by the moves of the host one by one. -/
theorem faultedCoreDoesNothing : Obligations.FaultedCoreDoesNothing := by
  intro s hf
  refine ⟨if_pos (by simp [Option.isSome_iff_ne_none.2 hf]), run_of_faulted hf, fun m p h hm => ?_⟩
  cases m with
  | reset => cases hm; exact ⟨fun _ => rfl, fun hne => absurd rfl hne⟩
  | load image => obtain ⟨_, rfl⟩ := load_accepted hm; exact ⟨nofun, fun _ => rfl⟩
  | writeKey key => cases hm; exact ⟨nofun, fun _ => rfl⟩
  | cycle =>
    have hcore : s = h.core :=
      Host.Outcome.next.inj ((step_of_faulted (Option.isSome_iff_ne_none.2 hf)).symm.trans (cycle_accepted hm).1)
    exact ⟨nofun, fun _ => congrArg _ hcore.symm⟩

/-- Settles O24 (R129, R263): a state with the latch set is the last one of its run, however long. -/
theorem safeRunsHaveSafePrefixes : Obligations.SafeRunsHaveSafePrefixes := by
  intro j k
  induction j with
  | zero =>
    rintro s ⟨t, hrun, hgood⟩
    refine ⟨s, rfl, ?_⟩
    by_contra hf
    rw [run_of_faulted hf] at hrun
    cases hrun
    exact hf hgood
  | succ j ih =>
    rintro s ⟨t, hrun, hgood⟩
    obtain ⟨u, hstep, _⟩ := step_transition s
    rw [Nat.succ_add, run_succ hstep] at hrun
    obtain ⟨v, hv, hvgood⟩ := ih u ⟨t, hrun, hgood⟩
    exact ⟨v, (run_succ hstep j).trans hv, hvgood⟩

end Sys2Proof.Proofs.HostMoves
end

section
/-!
The sound timer and the opcode register cannot be read by a program (spec section 10.7): two runs of a cycle from states
that differ in these alone answer states that differ in these alone.
-/

namespace Sys2Proof.Proofs.Noninterference

open Sys2Proof.Machine Sys2Proof.Proofs.Writers Sys2Proof.Proofs.Cycle

/-- The state with another sound timer and another opcode register. -/
def withStOpcode (a : Byte) (b : Word) (s : State) : State := { s with st := a, opcode := b }

variable (a : Byte) (b : Word) (s : State)

theorem instrFault_withStOpcode (i : Instr) : instrFault i (withStOpcode a b s) = instrFault i s := by
  cases i <;> rfl

theorem faultOfCycle_withStOpcode : (withStOpcode a b s).faultOfCycle = s.faultOfCycle := by
  simp only [State.faultOfCycle, instrFault_withStOpcode]
  rfl

theorem skipIf_withStOpcode (c : Bool) : (withStOpcode a b s).skipIf c = withStOpcode a b (s.skipIf c) := by
  cases c <;> rfl

/-- An instruction reads neither: it answers the same state but for the two. `Fx18` alone sets the sound timer, and to
the same value in both. -/
theorem exec_withStOpcode {t : State} {i : Instr} (h : exec i s = .next t) :
    ∃ a', exec i (withStOpcode a b s) = .next (withStOpcode a' b t) := by
  have hsame : instrFault i { withStOpcode a b s with pc := (withStOpcode a b s).pc - 2 } =
      instrFault i { s with pc := s.pc - 2 } := instrFault_withStOpcode a b { s with pc := s.pc - 2 } i
  cases hi : instrFault i { s with pc := s.pc - 2 } with
  | some r =>
    cases (exec_raises hi).symm.trans h
    exact ⟨a, exec_raises (hsame.trans hi)⟩
  | none =>
    have hi' := hsame.trans hi
    cases i with
    | ret =>
      obtain ⟨_, hexec⟩ := exec_ret_of_no_fault hi
      obtain ⟨_, hexec'⟩ := exec_ret_of_no_fault hi'
      cases hexec.symm.trans h
      exact ⟨a, hexec'⟩
    | call nnn =>
      obtain ⟨_, hexec⟩ := exec_call_of_no_fault hi
      obtain ⟨_, hexec'⟩ := exec_call_of_no_fault hi'
      cases hexec.symm.trans h
      exact ⟨a, hexec'⟩
    | skp x =>
      obtain ⟨_, hexec⟩ := exec_skp_of_no_fault hi
      obtain ⟨_, hexec'⟩ := exec_skp_of_no_fault hi'
      cases hexec.symm.trans h
      exact ⟨a, hexec'.trans (congrArg _ (skipIf_withStOpcode a b s _))⟩
    | sknp x =>
      obtain ⟨_, hexec⟩ := exec_sknp_of_no_fault hi
      obtain ⟨_, hexec'⟩ := exec_sknp_of_no_fault hi'
      cases hexec.symm.trans h
      exact ⟨a, hexec'.trans (congrArg _ (skipIf_withStOpcode a b s _))⟩
    | drw x y n =>
      cases (exec_drw_of_no_fault hi).symm.trans h
      exact ⟨a, exec_drw_of_no_fault hi'⟩
    | ldBVx x =>
      cases (exec_ldBVx_of_no_fault hi).symm.trans h
      exact ⟨a, exec_ldBVx_of_no_fault hi'⟩
    | ldMemVx x =>
      cases (exec_ldMemVx_of_no_fault hi).symm.trans h
      exact ⟨a, exec_ldMemVx_of_no_fault hi'⟩
    | ldVxMem x =>
      cases (exec_ldVxMem_of_no_fault hi).symm.trans h
      exact ⟨a, exec_ldVxMem_of_no_fault hi'⟩
    | ldVxK x =>
      cases hk : s.leastKey with
      | some k =>
        cases (exec_ldVxK_down s x hk).symm.trans h
        exact ⟨a, exec_ldVxK_down (withStOpcode a b s) x hk⟩
      | none =>
        cases (exec_ldVxK_up s x hk).symm.trans h
        exact ⟨a, exec_ldVxK_up (withStOpcode a b s) x hk⟩
    | seVxKk | sneVxKk | seVxVy | sneVxVy =>
      cases h
      exact ⟨a, congrArg Host.Outcome.next (skipIf_withStOpcode a b s _)⟩
    | ldStVx x => cases h; exact ⟨s.readV x, rfl⟩
    | _ => cases h; exact ⟨a, rfl⟩

/-- Settles O23 (R36, log 2): the fetch latches the same word in both, so that the opcode too is the same after it. -/
theorem soundTimerAndOpcodeAreNotObservable : Obligations.SoundTimerAndOpcodeAreNotObservable := by
  intro s t st' op' hstep
  show ∃ t', step (withStOpcode st' op' s) = .next t' ∧ _
  cases transition_of_step hstep with
  | halted hf => exact ⟨_, step_of_faulted (Option.isSome_iff_ne_none.2 hf), rfl⟩
  | raises hf r hr =>
    have hr' := (faultOfCycle_withStOpcode st' op' s).trans hr
    exact ⟨_, step_of_raises (s := withStOpcode st' op' s) hf hr', rfl⟩
  | unknown hf hp hd => exact ⟨_, step_of_unknown (s := withStOpcode st' op' s) hf hp hd, rfl⟩
  | completes hf i u hc =>
    obtain ⟨a', hexec⟩ := exec_withStOpcode st' s.fetchWord s.fetched hc.runs
    have hu : u.fault = none := hc.fault.trans hf
    have hstep' := step_of_exec (s := withStOpcode st' op' s) hf hc.fits hc.decodes hexec
    exact ⟨_, hstep'.trans (congrArg _ (State.commit_completed hu)), rfl⟩

end Sys2Proof.Proofs.Noninterference
end

section
/-!
The obligations about return, call, jump with offset, and the skips on registers and keys (spec sections 41, 42, 44 and
46). The decodings are those of an instruction's own word.
-/

namespace Sys2Proof.Proofs.ControlFlow

open Sys2Proof.Machine Sys2Proof.Proofs.RoundTrip Sys2Proof.Proofs.Writers Sys2Proof.Proofs.FamilyZeroToTwo
  Sys2Proof.Proofs.FamilyThreeToSeven

variable {s : State}

/-! ### Call and return at a given entry of the call stack -/

theorem exec_ret_at {j : Fin 16} (h : s.sp.val = j.val + 1) : exec .ret s = .next (s.popAndJump j) := by
  have h0 : s.sp ≠ 0 := fun h0 => by simp [h0] at h
  have hj : s.sp.pred h0 = j := Fin.ext (by rw [Fin.val_pred, h, Nat.add_sub_cancel])
  rw [exec_ret_pop s h0, hj]

theorem exec_call_at {j : Fin 16} (nnn : Addr12) (h : s.sp.val = j.val) :
    exec (.call nnn) s = .next (s.pushAndJump j (addrOperand nnn)) := by
  have hsp : s.sp.val < 16 := h ▸ j.isLt
  have hj : (⟨s.sp.val, hsp⟩ : Fin 16) = j := Fin.ext h
  rw [exec_call_push s nnn hsp, hj]

theorem pushAndJump_stack_get (j : Fin 16) (a : Word) (s : State) : (s.pushAndJump j a).stack[j] = s.pc := by
  rw [State.pushAndJump_stack, State.stack_set_get, if_pos rfl]

/-- Settles O26 (R141, D4): `sp` is 0, or one above the entry that the return takes. -/
theorem returnPopsOrUnderflows : Obligations.ReturnPopsOrUnderflows :=
  ⟨decodeWord_encode (i := .ret) rfl, fun s =>
    ⟨fun h => ⟨_, exec_ret_empty s (Fin.ext h), rfl⟩,
      fun j h => ⟨_, exec_ret_at h, rfl, rfl, unchanged_popAndJump s j⟩⟩⟩

/-- Settles O28 (R143, D4): `sp` is 16, or the entry that the call writes. -/
theorem callPushesOrOverflows : Obligations.CallPushesOrOverflows := fun nnn s =>
  ⟨decodeWord_encode (i := .call nnn) rfl,
    fun h => ⟨_, exec_call_full s nnn (Nat.not_lt.2 h.ge), rfl⟩,
    fun j h => ⟨_, exec_call_at nnn h, pushAndJump_stack_get j _ s, rfl, addrOperand_toNat nnn,
      unchanged_pushAndJump s j _⟩⟩

/-- Settles O30: the return pops the entry that the call pushed. -/
theorem returnUndoesCall : Obligations.ReturnUndoesCall := by
  intro nnn s hsp
  refine ⟨_, exec_call_at (j := ⟨s.sp.val, hsp⟩) nnn rfl, fun u husp hustack => ?_⟩
  refine ⟨_, exec_ret_at (j := ⟨s.sp.val, hsp⟩) (congrArg Fin.val husp), ?pc, rfl⟩
  case pc => rw [State.popAndJump_pc, hustack, pushAndJump_stack_get]

/-- Settles O29 (R182, D15): the sum of a byte and twelve bits fits in 16. -/
theorem jumpWithOffsetAddsV0 : Obligations.JumpWithOffsetAddsV0 := fun nnn s =>
  ⟨decodeWord_encode (i := .jpV0 nnn) rfl, _, rfl, offsetTarget_toNat _ nnn, unchanged_setPc _ s⟩

/-! ### Skips -/

/-- Settles O32 (R152, R180, D10): each word decodes with its last nibble, which the comparison does not read. -/
theorem skipsOnTwoRegisters : Obligations.SkipsOnTwoRegisters := fun x y z s =>
  ⟨decodeWord_encode (i := .seVxVy x y z) rfl, decodeWord_encode (i := .sneVxVy x y z) rfl,
    ⟨_, rfl, skipIf_beq_pc _ _ s, unchanged_skipIf _ s⟩, ⟨_, rfl, skipIf_bne_pc _ _ s, unchanged_skipIf _ s⟩⟩

theorem exec_skp_at {x : Reg} {k : Fin 16} (h : (s.readV x).toNat = k.val) :
    exec (.skp x) s = .next (s.skipIf s.key[k]) := by
  rw [exec_skp_key s x (h ▸ k.isLt)]; simp [h]

theorem exec_sknp_at {x : Reg} {k : Fin 16} (h : (s.readV x).toNat = k.val) :
    exec (.sknp x) s = .next (s.skipIf (!s.key[k])) := by
  rw [exec_sknp_key s x (h ▸ k.isLt)]; simp [h]

/-- Settles O33 (R200, R201, D8): `V[x]` is above 15, or it numbers a key. -/
theorem skipsOnAKey : Obligations.SkipsOnAKey := by
  intro x s
  refine ⟨decodeWord_encode (i := .skp x) rfl, decodeWord_encode (i := .sknp x) rfl, fun hx => ?beyond,
    fun k hk => ?key⟩
  case beyond => exact ⟨⟨_, exec_skp_beyond s x hx, rfl⟩, ⟨_, exec_sknp_beyond s x hx, rfl⟩⟩
  case key =>
    refine ⟨⟨_, exec_skp_at hk, s.skipIf_pc _, unchanged_skipIf _ s⟩, ⟨_, exec_sknp_at hk, ?_, unchanged_skipIf _ s⟩⟩
    rw [State.skipIf_pc]
    cases s.key[k] <;> rfl

end Sys2Proof.Proofs.ControlFlow
end

section
/-!
The obligations about additions, subtractions and shifts (spec sections 42 and 43). Where a flag and a result are both
written, the second write reads what the first left.
-/

namespace Sys2Proof.Proofs.Arithmetic

open Sys2Proof.Machine Sys2Proof.Proofs.RoundTrip Sys2Proof.Proofs.Writers Sys2Proof.Proofs.FamilyThreeToSeven

/-! ### Flags as numbers -/

theorem flagByte_toNat (f : Bool) : (flagByte f).toNat = f.toNat := by cases f <;> rfl

theorem toNat_decide (p : Prop) [Decidable p] : (decide p).toNat = if p then 1 else 0 := by
  by_cases h : p <;> simp [h]

theorem lowBit_toNat (a : Byte) : (lowBit a).toNat = a.toNat % 2 :=
  (Nat.toNat_testBit a.toNat 0).trans (by rw [Nat.pow_zero, Nat.div_one])

theorem highBit_toNat (a : Byte) : (highBit a).toNat = a.toNat / 128 := by
  have := a.isLt
  exact (Nat.toNat_testBit a.toNat 7).trans (by omega)

/-- After the flag write a register reads as the flag if it is VF, and as before if it is not. -/
theorem readV_writeFlag_toNat (f : Bool) (r : Reg) (s : State) :
    ((s.writeFlag f).readV r).toNat = if r = VF then f.toNat else (s.readV r).toNat := by
  rw [State.readV_writeFlag]
  split
  · exact flagByte_toNat f
  · rfl

theorem readV_writeV_writeFlag (x : Reg) (b : Byte) (f : Bool) (s : State) :
    x ≠ VF → ((s.writeV x b).writeFlag f).readV x = b := fun h => by
  rw [State.readV_writeFlag, if_neg h, readV_writeV_same]

theorem readV_writeFlag_writeV (x : Reg) (b : Byte) (f : Bool) (s : State) :
    x ≠ VF → (((s.writeFlag f).writeV x b).readV VF).toNat = f.toNat := fun h => by
  rw [State.readV_writeV, if_neg (Ne.symm h), readV_writeFlag_toNat, if_pos rfl]

/-! ### Additions -/

/-- Settles O35 (R154, D2): the sum is the only write. -/
theorem addImmediateWithoutFlag : Obligations.AddImmediateWithoutFlag := fun x kk s =>
  ⟨decodeWord_encode (i := .addVxKk x kk) rfl, _, rfl, by rw [readV_writeV_same, BitVec.toNat_add],
    unchanged_writeV x _ s⟩

/-- Settles O38 (R164, D11): the carry is the last write. -/
theorem addWithCarry : Obligations.AddWithCarry := by
  intro x y s
  refine ⟨decodeWord_encode (i := .addVxVy x y) rfl, _, rfl, fun hx => ?sum, ?carry, unchanged_writeV_writeFlag s x _ _⟩
  case sum => rw [readV_writeV_writeFlag x _ _ s hx, BitVec.toNat_add]
  case carry => rw [readV_writeFlag_toNat, if_pos rfl, carryOut, toNat_decide]

/-! ### Subtractions and shifts: the flag first -/

theorem sub_toNat (a b : Byte) : (a - b).toNat = (256 + a.toNat - b.toNat) % 256 := by
  have := b.isLt
  rw [BitVec.toNat_sub]
  omega

/-- The flag `f` and then the difference `V[a] - V[b]` into `x`. -/
theorem subInto_writeFlag (x a b : Reg) (f : Bool) (s : State) :
    (((s.writeFlag f).subInto x a b).readV x).toNat =
      (256 + (if a = VF then f.toNat else (s.readV a).toNat) -
        (if b = VF then f.toNat else (s.readV b).toNat)) % 256 := by
  rw [State.subInto, readV_writeV_same, sub_toNat, readV_writeFlag_toNat, readV_writeFlag_toNat]

theorem greaterFlag_toNat (a b : Byte) : (greaterFlag a b).toNat = if a.toNat > b.toNat then 1 else 0 := toNat_decide _

/-- Settles O39 (R165, D11): the difference `V[x] - V[y]` after the flag. -/
theorem subtractFlagFirst : Obligations.SubtractFlagFirst := fun x y s =>
  ⟨decodeWord_encode (i := .sub x y) rfl, _, rfl,
    greaterFlag_toNat (s.readV x) (s.readV y) ▸ ⟨subInto_writeFlag x x y _ s, readV_writeFlag_writeV x _ _ s⟩,
    unchanged_writeFlag_writeV s x _ _⟩

/-- Settles O40 (R167, D11): the difference `V[y] - V[x]` after the flag. -/
theorem reverseSubtractFlagFirst : Obligations.ReverseSubtractFlagFirst := fun x y s =>
  ⟨decodeWord_encode (i := .subn x y) rfl, _, rfl,
    greaterFlag_toNat (s.readV y) (s.readV x) ▸ ⟨subInto_writeFlag x y x _ s, readV_writeFlag_writeV x _ _ s⟩,
    unchanged_writeFlag_writeV s x _ _⟩

/-- Settles O41 (R166, D11): the half of `V[x]` after the flag, bit 0. -/
theorem shiftRightFlagFirst : Obligations.ShiftRightFlagFirst := by
  intro x z s
  refine ⟨decodeWord_encode (i := .shr x z) rfl, _, rfl, ?_, unchanged_writeFlag_writeV s x _ _⟩
  rw [← lowBit_toNat]
  refine ⟨?_, readV_writeFlag_writeV x _ _ s⟩
  rw [State.shiftRight, readV_writeV_same, BitVec.toNat_ushiftRight, Nat.shiftRight_eq_div_pow, readV_writeFlag_toNat]

/-- Settles O42 (R168, D11): the double of `V[x]` after the flag, bit 7. -/
theorem shiftLeftFlagFirst : Obligations.ShiftLeftFlagFirst := by
  intro x z s
  refine ⟨decodeWord_encode (i := .shl x z) rfl, _, rfl, ?_, unchanged_writeFlag_writeV s x _ _⟩
  rw [← highBit_toNat]
  refine ⟨?_, readV_writeFlag_writeV x _ _ s⟩
  rw [State.shiftLeft, readV_writeV_same, BitVec.toNat_shiftLeft, Nat.shiftLeft_eq, readV_writeFlag_toNat]

end Sys2Proof.Proofs.Arithmetic
end

section
/-!
The obligations about the index register, the random byte and the key wait (spec sections 44 and 47).
-/

namespace Sys2Proof.Proofs.IndexRandomKey

open Sys2Proof.Machine Sys2Proof.Proofs.RoundTrip Sys2Proof.Proofs.Writers Sys2Proof.Proofs.FamilyZeroToTwo
  Sys2Proof.Proofs.FamilyThreeToSeven Sys2Proof.Proofs.FamilyNineToC

/-- Settles O44 (R214, D15): `I` is the only write, of the sum in 16 bits. -/
theorem addToIndexWraps : Obligations.AddToIndexWraps := fun x s =>
  ⟨decodeWord_encode (i := .addIVx x) rfl, _, rfl, BitVec.toNat_ofNat _ 16, unchanged_setI _ s⟩

/-- Settles O45 (R215, D15): the largest glyph address fits in 16 bits. -/
theorem glyphAddress : Obligations.GlyphAddress := fun x s =>
  ⟨decodeWord_encode (i := .ldFVx x) rfl, _, rfl, glyphAddr_toNat _, unchanged_setI _ s⟩

/-- Settles O46 (R183, D13, log 2, log 15): of the byte on the port nothing is used but that RND_SET admits it. -/
theorem randomByteIsMasked : Obligations.RandomByteIsMasked := by
  intro x kk s
  have hv : (s.writeRandom x kk s.randomByte).readV x = kk &&& s.randomByte := readV_writeV_same x _ s
  refine ⟨decodeWord_encode (i := .rnd x kk) rfl, RndSet.admits_present _ _, RndSet.present_of_admits, _, rfl, hv,
    fun b hb => ?mask, rfl, unchanged_writeRandom s x kk _⟩
  case mask =>
    rw [hv]
    exact (BitVec.getElem_and _).trans (by rw [show kk[b.val] = false from hb, Bool.false_and])

theorem keyByte_toNat (k : Fin 16) : (keyByte k).toNat = k.val := by
  have := k.isLt
  rw [keyByte, BitVec.toNat_ofNat]
  omega

/-- Settles O50 (R211, D9): the scan finds the least key that is down, or none. -/
theorem keyWait : Obligations.KeyWait := by
  intro x s
  refine ⟨decodeWord_encode (i := .ldVxK x) rfl, fun k hk hlt => ?down, fun hup => ?up⟩
  case down =>
    refine ⟨_, exec_ldVxK_down s x (State.leastKey_eq_some.2 ⟨hk, hlt⟩), ?_, unchanged_writeV x _ s⟩
    rw [readV_writeV_same, keyByte_toNat]
  case up => exact ⟨_, exec_ldVxK_up s x (State.leastKey_eq_none.2 hup), rfl, unchanged_setPc _ s⟩

end Sys2Proof.Proofs.IndexRandomKey
end

section
/-!
The obligations about drawing and the read-out of the display (spec sections 45 and 48).
-/

namespace Sys2Proof.Proofs.Drawing

open Sys2Proof.Machine Sys2Proof.Proofs.RoundTrip Sys2Proof.Proofs.Writers

/-- A sprite's rows are at least one below the end of memory, or there are none. -/
theorem fits_of_le {n base : Nat} (h : n = 0 ∨ base + n - 1 ≤ 4095) : ¬(1 ≤ n ∧ 4095 < base + n - 1) := by omega

/-- After a draw VF is the collision, a flag. -/
theorem readV_drawAt_VF (s : State) (vx vy : Byte) {n : Nat} (h : n < 32) :
    (((s.drawAt vx vy n).readV VF).toNat = 1 ↔
      ∃ r c, s.spriteSets n (vx.toNat % 64) (vy.toNat % 32) r c ∧ pixel s.disp r c = true) ∧
    ((s.drawAt vx vy n).readV VF).toNat ≤ 1 := by
  obtain ⟨b, hv, hb⟩ := s.readV_drawAt vx vy h
  rw [hv VF, if_pos rfl, ← hb]
  cases b <;> decide

/-- Settles O47 (R190 to R192, D5, D12, log 7): the rows' addresses are checked, and then the sprite's places, which are
distinct, are each toggled once. -/
theorem drawInvertsTheSpritePixels : Obligations.DrawInvertsTheSpritePixels := by
  intro x y n s hn
  refine ⟨decodeWord_encode (i := .drw x y n) (decide_eq_true hn), fun hbeyond => ?beyond, fun hfits => ?fits⟩
  case beyond => exact ⟨_, exec_drw_beyond s x y n hbeyond, rfl⟩
  case fits =>
    obtain ⟨hcollision, hflag⟩ := readV_drawAt_VF s (s.readV x) (s.readV y) (n := n) (by omega)
    exact ⟨_, exec_drw_fits s x y n (fits_of_le hfits), s.pixel_drawAt _ _ (by omega), hcollision, hflag,
      unchanged_drawAt s _ _ n⟩

theorem readV_drawAt_other (s : State) (vx vy : Byte) (n : Nat) {x : Reg} (hx : x ≠ VF) :
    (s.drawAt vx vy n).readV x = s.readV x :=
  (unchanged_drawAt s vx vy n).regs x hx

theorem eq_of_ne_iff_ne : ∀ a b c : Bool, (a ≠ b ↔ b ≠ c) → a = c := by decide

/-- Drawing at the same place again inverts the same pixels: neither memory nor `I` has changed. -/
theorem disp_drawAt_drawAt (s : State) (vx vy : Byte) {n : Nat} (h : n < 32) :
    ((s.drawAt vx vy n).drawAt vx vy n).disp = s.disp := by
  apply display_ext
  intro r c
  have h1 := s.pixel_drawAt vx vy h r c
  have h2 := (s.drawAt vx vy n).pixel_drawAt vx vy h r c
  have hsame : pixel ((s.drawAt vx vy n).drawAt vx vy n).disp r c ≠ pixel (s.drawAt vx vy n).disp r c ↔
      pixel (s.drawAt vx vy n).disp r c ≠ pixel s.disp r c := h2.trans h1.symm
  exact eq_of_ne_iff_ne _ _ _ hsame

/-- Settles O48 (R190, R192, C10): the second draw inverts the pixels that the first did, and finds on what that turned
on. -/
theorem drawingTwiceRestoresTheDisplay : Obligations.DrawingTwiceRestoresTheDisplay := by
  intro x y n s hn hx hy hfits
  have h32 : n < 32 := by omega
  have hin : ¬(1 ≤ n ∧ 4095 < s.i.toNat + n - 1) := by omega
  set vx := s.readV x
  set vy := s.readV y
  have hsecond : exec (.drw x y n) (s.drawAt vx vy n) = .next ((s.drawAt vx vy n).drawAt vx vy n) := by
    have := exec_drw_fits (s.drawAt vx vy n) x y n hin
    rwa [readV_drawAt_other s vx vy n hx, readV_drawAt_other s vx vy n hy] at this
  refine ⟨_, _, exec_drw_fits s x y n hin, hsecond, disp_drawAt_drawAt s vx vy h32, ?_⟩
  rintro ⟨r, c, hoff, hon⟩
  refine (readV_drawAt_VF (s.drawAt vx vy n) vx vy h32).1.2 ⟨r, c, ?_, hon⟩
  exact (s.pixel_drawAt vx vy h32 r c).1 (by rw [hoff, hon]; decide)

/-- The read-out is the library's flattening of the rows. -/
theorem pixelList_eq (s : State) : s.pixelList = s.disp.flatten.toList := by
  show _ = (s.disp.toArray.map Vector.toArray).flatten.toList
  rw [Array.toList_flatten, Array.toList_map, List.map_map]
  rfl

/-- Settles O59 (R239, D26): index `r * 64 + c` has the quotient `r` and the remainder `c` by the width of a row. -/
theorem displayReadsOutRowByRow : Obligations.DisplayReadsOutRowByRow := by
  intro s
  rw [pixelList_eq]
  refine ⟨Vector.length_toList .., fun r c => ?_⟩
  have hlt : r.val * 64 + c.val < 32 * 64 := by omega
  have hrow : (r.val * 64 + c.val) / 64 = r.val := by omega
  have hcol : (r.val * 64 + c.val) % 64 = c.val := by omega
  rw [Vector.getElem?_toList, Vector.getElem?_flatten, dif_pos hlt]
  simp only [hrow, hcol]
  rfl

end Sys2Proof.Proofs.Drawing
end

section
/-!
The obligations about the instructions that store in memory and load from it (spec sections 47 and 20).
-/

namespace Sys2Proof.Proofs.Stores

open Sys2Proof.Machine Sys2Proof.Proofs.RoundTrip Sys2Proof.Proofs.Writers Sys2Proof.Proofs.Interfaces
  Sys2Proof.Proofs.Cycle Sys2Proof.Proofs.Drawing

variable (s : State)

/-! ### The bytes that a store leaves -/

theorem hundreds_lt (b : Byte) : b.toNat / 100 < 10 := by
  have := b.isLt
  omega

/-- The byte at each place among the three digits. -/
theorem decimalDigits_getD (b : Byte) {k : Nat} (hk : k < 3) :
    (decimalDigits b).getD k 0 = BitVec.ofNat 8 (b.toNat / 10 ^ (2 - k) % 10) := by
  match k, hk with
  | 0, _ => exact congrArg (BitVec.ofNat 8) (Nat.mod_eq_of_lt (hundreds_lt b)).symm
  | 1, _ => rfl
  | 2, _ => exact congrArg (fun n => BitVec.ofNat 8 (n % 10)) (Nat.div_one _).symm

theorem digitByte_toNat (n : Nat) : (BitVec.ofNat 8 (n % 10)).toNat = n % 10 := by
  rw [BitVec.toNat_ofNat]
  omega

/-- What an address reads as after the digits are stored. -/
theorem read_storeDigits (b : Byte) (m : Memory) (a c : Nat) :
    (m.writeBytes a (decimalDigits b)).read c =
      if a ≤ c ∧ c < a + 3 then BitVec.ofNat 8 (b.toNat / 10 ^ (2 - (c - a)) % 10) else m.read c := by
  rw [Memory.read_writeBytes, decimalDigits_length]
  split
  · exact decimalDigits_getD b (by omega)
  · rfl

theorem read_storeDigits_add (b : Byte) (a : Nat) {k : Nat} (hk : k < 3) :
    ((s.storeBytes a (decimalDigits b)).mem.read (a + k)).toNat = b.toNat / 10 ^ (2 - k) % 10 := by
  rw [read_storeBytes_add a _ s hk, decimalDigits_getD b hk, digitByte_toNat]

/-- What an address reads as after the registers below `n` are stored. -/
theorem read_storeLowRegs (m : Memory) {n : Nat} (hn : n ≤ 16) (a c : Nat) :
    (m.writeBytes a (s.lowRegs n)).read c =
      if a ≤ c ∧ c < a + n then s.v.toList.getD (c - a) 0 else m.read c := by
  rw [Memory.read_writeBytes, s.lowRegs_length n hn]
  split
  · have hlt : c - a < n := by omega
    simp [State.lowRegs, hlt]
  · rfl

theorem read_storeLowRegs_add {n : Nat} (hn : n ≤ 16) {r : Reg} (hr : r.val < n) (a : Nat) :
    (s.storeBytes a (s.lowRegs n)).mem.read (a + r.val) = s.readV r := by
  rw [read_storeBytes_add a _ s (by rwa [s.lowRegs_length n hn]), s.lowRegs_getD n r hr]

/-! ### The obligations about `exec` -/

/-- Settles O51 (R216, D5, D6): the digit at each of the three places, of which the first needs no remainder. -/
theorem decimalDigitsAreStored : Obligations.DecimalDigitsAreStored := by
  intro x s
  refine ⟨decodeWord_encode (i := .ldBVx x) rfl, fun hbeyond => ⟨_, exec_ldBVx_beyond s x hbeyond, rfl⟩,
    fun hfits => ?_⟩
  have hread {k : Nat} (hk : k < 3) := read_storeDigits_add s (s.readV x) s.base hk
  refine ⟨_, exec_ldBVx_fits s x (Nat.not_lt.2 hfits), ?_, hread (k := 1) (by decide), ?_,
    unchanged_storeBytes s.base (decimalDigits (s.readV x)) s⟩
  · exact (hread (k := 0) (by decide)).trans (Nat.mod_eq_of_lt (hundreds_lt _))
  · exact (hread (k := 2) (by decide)).trans (by rw [Nat.sub_self, Nat.pow_zero, Nat.div_one])

/-- Settles O52 (R217, D3, D5, D6): the store of the registers below `x`. -/
theorem registersAreStored : Obligations.RegistersAreStored := by
  intro x s
  refine ⟨decodeWord_encode (i := .ldMemVx x) rfl, fun hbeyond => ⟨_, exec_ldMemVx_beyond s x hbeyond, rfl⟩,
    fun hfits => ?_⟩
  exact ⟨_, exec_ldMemVx_fits s x (fits_of_le hfits), fun r hr => read_storeLowRegs_add s x.isLt.le hr s.base,
    unchanged_storeLowRegs s s.base x.isLt.le⟩

/-- Settles O53 (R218, D3, D5, D6): the load of the registers below `x`. -/
theorem registersAreLoaded : Obligations.RegistersAreLoaded := by
  intro x s
  refine ⟨decodeWord_encode (i := .ldVxMem x) rfl, fun hbeyond => ⟨_, exec_ldVxMem_beyond s x hbeyond, rfl⟩,
    fun hfits => ?_⟩
  exact ⟨_, exec_ldVxMem_fits s x (fits_of_le hfits), fun r hr => (s.readV_loadLowRegs _ _ r).trans (if_pos hr),
    unchanged_loadLowRegs s _ _⟩

/-- Settles O54 (R217, R218): the load reads, from the memory of the store, the bytes that the store wrote. -/
theorem blockLoadUndoesBlockStore : Obligations.BlockLoadUndoesBlockStore := by
  intro x s hfits
  have hin : ¬(1 ≤ x.val ∧ 4095 < s.base + x.val - 1) := by omega
  refine ⟨_, exec_ldMemVx_fits s x hin, fun u hmem hi => ?_⟩
  have hbase : u.base = s.base := congrArg BitVec.toNat hi
  refine ⟨_, exec_ldVxMem_fits u x (hbase ▸ hin), fun r hr => ?_⟩
  rw [State.readV_loadLowRegs, if_pos (Fin.lt_def.1 hr), hmem, hbase, read_storeLowRegs_add s x.isLt.le hr]

/-! ### The store and the next fetch -/

/-- A cycle that runs a store of bytes completes, and the next cycle fetches from the memory that the store left. -/
theorem step_storeBytes {s : State} {i : Instr} {a : Nat} {bs : List Byte} (hf : s.fault = none)
    (hp : s.pc.toNat ≤ 0xFFE) (hd : decodeWord s.fetchWord = some i)
    (hexec : exec i s.fetched = .next (s.fetched.storeBytes a bs)) :
    ∃ t, step s = .next t ∧ t.fault = none ∧ t.pc = s.pc + 2 ∧
      t.fetchWord = wordOfBytes ((s.mem.writeBytes a bs).read (s.pc.toNat + 2))
        ((s.mem.writeBytes a bs).read (s.pc.toNat + 3)) := by
  refine ⟨(s.fetched.storeBytes a bs).tick, ?_, hf, rfl, ?_⟩
  · exact (step_of_exec hf hp hd hexec).trans (congrArg _ (State.commit_completed hf))
  · rw [State.fetchWord_eq]
    have hpc : (s.fetched.storeBytes a bs).tick.pc.toNat = s.pc.toNat + 2 := toNat_add_two hp
    rw [hpc]
    rfl

theorem wordOfBytes_toNat (hi lo : Byte) : (wordOfBytes hi lo).toNat = hi.toNat * 256 + lo.toNat := by
  rw [wordOfBytes, BitVec.toNat_append, ← Nat.shiftLeft_add_eq_or_of_lt lo.isLt, Nat.shiftLeft_eq]

/-- Settles O55 (R73, D17): the next word is read from the memory that the store left, byte by byte. -/
theorem storeIsSeenByTheNextFetch : Obligations.StoreIsSeenByTheNextFetch := by
  intro s x hf hpc
  have hp : s.pc.toNat ≤ 0xFFE := by omega
  have hlow (hbase : s.base = s.pc.toNat + 2) : s.pc.toNat + 3 = s.base + 1 := by omega
  refine ⟨fun hd hfits => ?registers, fun hd hfits => ?digits⟩
  case registers =>
    intro after
    have hafter : ∀ c, (s.mem.writeBytes s.base (s.lowRegs x.val)).read c = after c :=
      read_storeLowRegs s s.mem x.isLt.le s.base
    obtain ⟨t, hstep, htf, htpc, hword⟩ := step_storeBytes hf hp hd (exec_ldMemVx_fits s.fetched x (fits_of_le hfits))
    refine ⟨t, hstep, htf, htpc, hword.trans (congrArg₂ _ (hafter _) (hafter _)), fun hbase hx => hword.trans ?_⟩
    have hreg {r : Reg} (hr : r.val < x.val) := read_storeLowRegs_add s x.isLt.le hr s.base
    refine congrArg₂ _ ?_ ?_
    · rw [← hbase]; exact hreg (r := 0) (Nat.lt_of_lt_of_le Nat.two_pos hx)
    · rw [hlow hbase]; exact hreg (r := 1) hx
  case digits =>
    intro digit after
    have hafter : ∀ c, (s.mem.writeBytes s.base (decimalDigits (s.readV x))).read c = after c :=
      read_storeDigits (s.readV x) s.mem s.base
    obtain ⟨t, hstep, htf, htpc, hword⟩ := step_storeBytes hf hp hd (exec_ldBVx_fits s.fetched x (Nat.not_lt.2 hfits))
    refine ⟨t, hstep, htf, htpc, hword.trans (congrArg₂ _ (hafter _) (hafter _)), fun hbase => ?_⟩
    have hdigit {k : Nat} (hk : k < 3) := read_storeDigits_add s (s.readV x) s.base hk
    rw [hword, wordOfBytes_toNat]
    refine congrArg₂ (fun hi lo => hi * 256 + lo) ?_ ?_
    · rw [← hbase]; exact (hdigit (k := 0) (by decide)).trans (Nat.mod_eq_of_lt (hundreds_lt _))
    · rw [hlow hbase]; exact hdigit (k := 1) (by decide)

end Sys2Proof.Proofs.Stores
end
